-- ==== Sys2Proof/Word.lean ====
section
/-! DEFINITION. The word types of OOKTX: a register or bus word, and a string of physical bits. -/

namespace Sys2Proof

/-- A 32-bit register or bus word (R7, R19). Every value is unsigned (R9). -/
abbrev Word := BitVec 32

/-- A string of physical bits, the leftmost first in time (R10). -/
abbrev Bits := List Bool

end Sys2Proof
end

