-- ==== Sys2Proof/Config.lean ====
section
/-! DEFINITION. What an implementation of OOKTX fixes: the open parameters of rule R8 with their constraints
K1 to K8, held as ONE legal parameter set that has no body, and the free value of rule R40. -/

namespace Sys2Proof

/-- A digit of a lookup table or of the padding (R66, Glossary): `'0'`, `'1'` or `'X'`. -/
inductive Digit where
  | zero
  | one
  | x
deriving DecidableEq, Repr

/-- A set of values for the open parameters of rule R8. A lookup table is the list of its entries in the order of
its index: house 0xA to 0xF, unit 1 to 8 or 1 to 4. -/
structure Params where
  /-- `P_BASE`, the address of the register window (R52). -/
  pBase : Word
  /-- `LRN_GROUP`: `false` is the digit `'0'`, `true` the digit `'1'`. -/
  lrnGroup : Bool
  /-- The first digit of `LRN_TAIL`. -/
  lrnTail1 : Bool
  /-- The second digit of `LRN_TAIL`. -/
  lrnTail0 : Bool
  /-- `TRI_BITS('0')`. -/
  tri0 : Bits
  /-- `TRI_BITS('1')`. -/
  tri1 : Bits
  /-- `TRI_BITS('X')`. -/
  triX : Bits
  /-- `TRI_BITS(STOP)`. -/
  triStop : Bits
  /-- `SMP_HOUSE[0xA]` to `SMP_HOUSE[0xF]`. -/
  smpHouse : Vector (List Digit) 6
  /-- `SMP_UNIT[1]` to `SMP_UNIT[8]`. -/
  smpUnit : Vector (List Digit) 8
  /-- `HLE_HOUSE[0xA]` to `HLE_HOUSE[0xF]`. -/
  hleHouse : Vector (List Digit) 6
  /-- `HLE_UNIT[1]` to `HLE_UNIT[4]`. -/
  hleUnit : Vector (List Digit) 4
  /-- `SMP_PAD`. -/
  smpPad : List Digit
  /-- `HLE_PAD`. -/
  hlePad : List Digit
  /-- `P_SEQ_MAX`. -/
  pSeqMax : Nat
deriving DecidableEq, Repr

/-- The greatest number of digits an entry of the table has. -/
def longestEntry (table : List (List Digit)) : Nat :=
  table.foldr (fun e n => max e.length n) 0

/-- The length of the longest tri-state sequence over the given tables (R87). -/
def longestTri (P : Params) (house unit : List (List Digit)) (pad : List Digit) : Nat :=
  P.tri0.length * (longestEntry house + longestEntry unit + pad.length + 1) + P.triStop.length

/-- Every entry has as many digits as the first one. -/
def sameLengths (table : List (List Digit)) : Bool :=
  table.all fun e => e.length == (table.headD []).length

/-- Every digit is `'0'` or `'X'`. -/
def onlyZeroX (table : List (List Digit)) : Bool :=
  table.all fun e => e.all fun d => d != Digit.one

/-- R8: `P_BASE` is a multiple of 32. -/
def Params.baseAligned (P : Params) : Bool := P.pBase.toNat % 32 == 0

/-- R8: every `TRI_BITS` string is non-empty. -/
def Params.triNonEmpty (P : Params) : Bool :=
  !P.tri0.isEmpty && !P.tri1.isEmpty && !P.triX.isEmpty && !P.triStop.isEmpty

/-- K1: house and unit entries are drawn from `'0'` and `'X'`. -/
def Params.k1 (P : Params) : Bool :=
  onlyZeroX P.smpHouse.toList && onlyZeroX P.smpUnit.toList &&
    onlyZeroX P.hleHouse.toList && onlyZeroX P.hleUnit.toList

/-- K2: `SMP_HOUSE[0xA]` is `"0000"`. -/
def Params.k2 (P : Params) : Bool := P.smpHouse[0] == [.zero, .zero, .zero, .zero]

/-- K3: every `SMP_UNIT` entry has 4 digits. -/
def Params.k3 (P : Params) : Bool := P.smpUnit.toList.all fun e => e.length == 4

/-- K4: `'0'` and `'X'` expand to strings of one length. -/
def Params.k4 (P : Params) : Bool := P.tri0.length == P.triX.length

/-- K5: `TRI_BITS(STOP)` ends in a 0 bit. -/
def Params.k5 (P : Params) : Bool := P.triStop.getLast? == some false

/-- K6: the entries of one table have one length, and `'1'` expands to as many bits as `'0'`. -/
def Params.k6 (P : Params) : Bool :=
  sameLengths P.smpHouse.toList && sameLengths P.smpUnit.toList &&
    sameLengths P.hleHouse.toList && sameLengths P.hleUnit.toList && P.tri1.length == P.tri0.length

/-- K7: the longest sequence any command produces fits `P_SEQ_MAX`, which fits 16 bits. 310 is the longest
Learning sequence (R76). -/
def Params.k7 (P : Params) : Bool :=
  decide (310 ≤ P.pSeqMax) &&
    decide (longestTri P P.smpHouse.toList P.smpUnit.toList P.smpPad ≤ P.pSeqMax) &&
    decide (longestTri P P.hleHouse.toList P.hleUnit.toList P.hlePad ≤ P.pSeqMax) &&
    decide (P.pSeqMax ≤ 65535)

/-- K8: `'X'` and `'0'` expand differently. -/
def Params.k8 (P : Params) : Bool := P.triX != P.tri0

/-- D18: every `HLE_UNIT` entry has 4 digits (log entry 12). -/
def Params.d18 (P : Params) : Bool := P.hleUnit.toList.all fun e => e.length == 4

/-- R8: the parameter set breaks none of the constraints. -/
def Params.legal (P : Params) : Bool :=
  P.baseAligned && P.triNonEmpty && P.k1 && P.k2 && P.k3 && P.k4 && P.k5 && P.k6 && P.k7 && P.k8 && P.d18

/-- The test fixture of `95_test_vectors.md` section 2. It is NOT the protocol: no meaning reads it. It shows that a
legal parameter set exists, and the tests run on it. `P_BASE` has no value there; 0 stands in. -/
def Params.fixture : Params where
  pBase := 0
  lrnGroup := false
  lrnTail1 := true
  lrnTail0 := true
  tri0 := [true, false, false, false, true, false, false, false]
  tri1 := [false, true, true, true, false, true, true, true]
  triX := [true, false, false, false, true, true, true, false]
  triStop := true :: List.replicate 15 false
  smpHouse := #v[[.zero, .zero, .zero, .zero], [.zero, .zero, .zero, .x], [.zero, .zero, .x, .zero],
    [.zero, .zero, .x, .x], [.zero, .x, .zero, .zero], [.zero, .x, .zero, .x]]
  smpUnit := #v[[.zero, .zero, .zero, .zero], [.zero, .zero, .zero, .x], [.zero, .zero, .x, .zero],
    [.zero, .zero, .x, .x], [.zero, .x, .zero, .zero], [.zero, .x, .zero, .x], [.zero, .x, .x, .zero],
    [.zero, .x, .x, .x]]
  hleHouse := #v[[.zero, .zero, .zero, .zero, .zero, .zero], [.zero, .zero, .zero, .zero, .zero, .x],
    [.zero, .zero, .zero, .zero, .x, .zero], [.zero, .zero, .zero, .zero, .x, .x],
    [.zero, .zero, .zero, .x, .zero, .zero], [.zero, .zero, .zero, .x, .zero, .x]]
  hleUnit := #v[[.zero, .zero, .zero, .zero], [.zero, .zero, .zero, .x], [.zero, .zero, .x, .zero],
    [.zero, .zero, .x, .x]]
  smpPad := [.zero, .x]
  hlePad := [.x, .zero]
  pSeqMax := 512

/-- A parameter set together with the proof that it breaks no constraint: R8 says that a model must reject one that
does, and none can be built. (The two defaults only show that the type is inhabited.) -/
structure LegalParams where
  params : Params := Params.fixture
  legal : params.legal = true := by decide
deriving Inhabited

/-- R8: accept a parameter set, or reject it because it breaks a constraint. -/
def Params.accept (P : Params) : Option LegalParams :=
  if h : P.legal = true then some ⟨P, h⟩ else none

/-- The block's parameters: some legal set, and nothing more is known of it (log entry 2). It has no body, so a
claim holds whichever legal set the implementation has. -/
opaque Config.given : LegalParams

/-- The open parameters of rule R8. -/
def Config.params : Params := Config.given.params

/-- The free value of rule R40: a bit of the sequence buffer that holds no defined value, by its index (log
entry 3). It has no body. No reachable state reads it. -/
opaque Config.unheldBit : Nat → Bool

end Sys2Proof
end

