-- ==== Sys2Proof/Syntax.lean ====
section
/-! DEFINITION. The commands of `spec/opcode_table.json`, the fields of CMD, and the host-program notation of
rules R67 and R68. -/

namespace Sys2Proof

/-- A command (R60, R63), one constructor per row of the opcode table. Its operands are the fields of the CMD word and
the IDENT word; a field that a variant ignores (R62) is kept, so that no bit of an encoding is dropped
(log entry 10). -/
inductive Instr where
  /-- `TX.LRN`: transmit, Learning variant (R91). -/
  | txLrn (ident : Word) (unit : BitVec 4) (act : Bool) (reps : BitVec 8)
  /-- `TX.SMP`: transmit, Simple variant (R92). `unit` is ignored. -/
  | txSmp (ident : Word) (unit : BitVec 4) (act : Bool) (reps : BitVec 8)
  /-- `TX.HLE`: transmit, HellE variant (R93). `unit` is ignored. -/
  | txHle (ident : Word) (unit : BitVec 4) (act : Bool) (reps : BitVec 8)
  /-- `(reserved)`: VARIANT = 3, refused at START (R94). Every operand is ignored. -/
  | reserved (ident : Word) (unit : BitVec 4) (act : Bool) (reps : BitVec 8)
deriving DecidableEq, Repr

/-- The fields of CMD (R20). The reserved bits have no storage. -/
structure CmdReg where
  variant : BitVec 2
  act : Bool
  unit : BitVec 4
  reps : BitVec 8
deriving DecidableEq, Repr

/-- The two 32-bit words of a command (R60). -/
structure CommandWords where
  cmd : Word
  ident : Word
deriving DecidableEq, Repr

/-- The registers of the window (R19). -/
inductive Reg where
  | cmd
  | ident
  | ctrl
  | status
  | now
  | len
  | pos
deriving DecidableEq, Repr

/-- The levels of the input ports in one `clk` cycle (R14). -/
structure ClkInput where
  rst : Bool
  usTick : Bool
  busSel : Bool
  busWr : Bool
  busAddr : BitVec 5
  busWdata : Word
deriving DecidableEq, Repr

/-- What the environment presents next: the input ports of one cycle, or a `WAIT` loop (R67). -/
inductive HostAction where
  | cycle (c : ClkInput)
  | wait (addr : BitVec 5) (mask value : Word)
deriving DecidableEq, Repr

/-- A statement of a host program (R67), or a pseudo-instruction (R68) with its operands as numbers. An address is a
register's offset. -/
inductive Stmt where
  /-- `WR <reg>, <value>` -/
  | wr (addr : BitVec 5) (value : Word)
  /-- `RD <reg>` -/
  | rd (addr : BitVec 5)
  /-- `TICK <n>` -/
  | tick (n : Nat)
  /-- `WAIT <reg>, <mask>, <val>` -/
  | wait (addr : BitVec 5) (mask value : Word)
  /-- `RST` -/
  | rst
  /-- `TX.LRN ident, u, a, n` -/
  | txLrn (ident : Word) (u : Nat) (a : Bool) (n : Nat)
  /-- `TX.SMP ident, a, n` -/
  | txSmp (ident : Word) (a : Bool) (n : Nat)
  /-- `TX.HLE ident, a, n` -/
  | txHle (ident : Word) (a : Bool) (n : Nat)
  /-- `WAITIDLE` -/
  | waitIdle
  /-- `CLR <mask>` -/
  | clr (mask : Word)
deriving DecidableEq, Repr

end Sys2Proof
end

