-- ==== Sys2Proof/WellFormed.lean ====
section
/-! DEFINITION. The checks on syntax: which pairs of words are in canonical form, and which host statements have
operands that fit their fields. Every term of `Instr` is well formed by its types, since no operand value is an
illegal encoding (R64); the checks on a parameter set (K1 to K8) are `Params.legal` in Config. -/

namespace Sys2Proof

/-- R60: CMD bit 3 is reserved and written 0. -/
def CommandWords.bit3Zero (w : CommandWords) : Bool := !w.cmd.getLsbD 3

/-- R60: CMD bits 31:16 are reserved and written 0. -/
def CommandWords.highZero (w : CommandWords) : Bool := w.cmd.toNat < 65536

/-- The pair of words is a command in canonical form: its reserved bits are 0. A pair that is not is still a legal
command (R64: the bits are ignored); it is the second spelling of another pair. -/
def CommandWords.canonical (w : CommandWords) : Bool := w.bit3Zero && w.highZero

/-- R24: a repetition count fits the 8 bits of CMD.REPS. -/
def repsFits (n : Nat) : Bool := n < 256

/-- R23: a unit selector fits the 4 bits of CMD.UNIT. -/
def unitFits (u : Nat) : Bool := u < 16

/-- The operands of a host statement fit their fields, so that the sums of R68 do not run into one another. -/
def Stmt.wf : Stmt → Bool
  | .wr _ _ => true
  | .rd _ => true
  | .tick _ => true
  | .wait _ _ _ => true
  | .rst => true
  | .txLrn _ u _ n => unitFits u && repsFits n
  | .txSmp _ _ n => repsFits n
  | .txHle _ _ n => repsFits n
  | .waitIdle => true
  | .clr _ => true

end Sys2Proof
end

