-- ==== Sys2Proof/Decode.lean ====
section
/-! DEFINITION. From words to commands and back: the fields of CMD (R20, R60), the opcode map (R63), the decoder and
the encoder. -/

namespace Sys2Proof

/-- The fields of a CMD word; bits 31:16 and 3 are ignored (R48, R60). -/
def cmdOfWord (v : Word) : CmdReg where
  variant := v.extractLsb' 0 2
  act := v.getLsbD 2
  unit := v.extractLsb' 4 4
  reps := v.extractLsb' 8 8

/-- The CMD word of the fields; the reserved bits are 0 (R20, R60). -/
def wordOfCmd (c : CmdReg) : Word :=
  0#16 ++ c.reps ++ c.unit ++ 0#1 ++ BitVec.ofBool c.act ++ c.variant

/-- The command that the fields of CMD and the word IDENT select: the opcode map of R63. All four values of VARIANT
stand in it, so every pair of words decodes. -/
def decodeFields (c : CmdReg) (ident : Word) : Instr :=
  if c.variant = 0b00#2 then .txLrn ident c.unit c.act c.reps
  else if c.variant = 0b01#2 then .txSmp ident c.unit c.act c.reps
  else if c.variant = 0b10#2 then .txHle ident c.unit c.act c.reps
  else .reserved ident c.unit c.act c.reps

/-- The command that a pair of words encodes (R60, R63). -/
def decode (w : CommandWords) : Instr := decodeFields (cmdOfWord w.cmd) w.ident

/-- The fields of CMD that encode a command (R63). -/
def fieldsOf : Instr → CmdReg
  | .txLrn _ unit act reps => ⟨0b00#2, act, unit, reps⟩
  | .txSmp _ unit act reps => ⟨0b01#2, act, unit, reps⟩
  | .txHle _ unit act reps => ⟨0b10#2, act, unit, reps⟩
  | .reserved _ unit act reps => ⟨0b11#2, act, unit, reps⟩

/-- The IDENT word of a command (R60). -/
def identOf : Instr → Word
  | .txLrn ident _ _ _ => ident
  | .txSmp ident _ _ _ => ident
  | .txHle ident _ _ _ => ident
  | .reserved ident _ _ _ => ident

/-- The pair of words of a command, its reserved bits 0 (R60). -/
def encode (i : Instr) : CommandWords where
  cmd := wordOfCmd (fieldsOf i)
  ident := identOf i

/-- Why a numbered table word is no command: a command is two 32-bit words (R60, R65). -/
inductive DecodeReject where
  /-- The word has more bits than a command has. Safe: nothing is run. -/
  | longerThanACommand (nbits : Nat)
deriving DecidableEq, Repr

/-- The pair of words numbered as `spec/opcode_table.json` numbers them: CMD is bits 31:0 and IDENT bits 63:32
of `w`; bits at or above `nbits` are 0 (log entry 6). -/
def tableWords (nbits w : Nat) : CommandWords where
  cmd := BitVec.ofNat 32 (w % 2 ^ nbits)
  ident := BitVec.ofNat 32 (w % 2 ^ nbits / 2 ^ 32)

/-- The command in a numbered table word, or why there is none. -/
def decodeNumbered (nbits w : Nat) : Except DecodeReject Instr :=
  if nbits ≤ 64 then .ok (decode (tableWords nbits w)) else .error (.longerThanACommand nbits)

/-- The instruction the decoder reads from a numbered table word. -/
def decodeTableWord (nbits w : Nat) : Option Instr :=
  match decodeNumbered nbits w with
  | .ok i => some i
  | .error _ => none

/-- A row of the opcode table: a CMD word `v` is this row's when `v &&& mask = matchBits`. -/
structure OpcodeRow where
  mnemonic : String
  mask : Word
  matchBits : Word
deriving DecidableEq, Repr

/-- The rows of `spec/opcode_table.json` (R63). -/
def opcodeRows : List OpcodeRow :=
  [⟨"TX.LRN", 0x00000003, 0x00000000⟩, ⟨"TX.SMP", 0x00000003, 0x00000001⟩,
   ⟨"TX.HLE", 0x00000003, 0x00000002⟩, ⟨"(reserved)", 0x00000003, 0x00000003⟩]

/-- The CMD word is of this row. -/
def OpcodeRow.hits (r : OpcodeRow) (v : Word) : Bool := v &&& r.mask == r.matchBits

/-- The mnemonic of a command, as the opcode table has it. -/
def mnemonic : Instr → String
  | .txLrn _ _ _ _ => "TX.LRN"
  | .txSmp _ _ _ _ => "TX.SMP"
  | .txHle _ _ _ _ => "TX.HLE"
  | .reserved _ _ _ _ => "(reserved)"

/-- The offset of a register in the window (R19). -/
def Reg.offset : Reg → BitVec 5
  | .cmd => 0x00
  | .ident => 0x04
  | .ctrl => 0x08
  | .status => 0x0C
  | .now => 0x10
  | .len => 0x14
  | .pos => 0x18

/-- The register an access reaches, or none: an offset that is misaligned, or 0x1C (R45, R46). -/
def regAt (addr : BitVec 5) : Option Reg :=
  if addr = 0x00 then some .cmd
  else if addr = 0x04 then some .ident
  else if addr = 0x08 then some .ctrl
  else if addr = 0x0C then some .status
  else if addr = 0x10 then some .now
  else if addr = 0x14 then some .len
  else if addr = 0x18 then some .pos
  else none

/-- The offset of an address in the register window at `base`, or none outside it (R12, R52). -/
def windowOffset (base addr : Word) : Option (BitVec 5) :=
  if base.toNat ≤ addr.toNat ∧ addr.toNat < base.toNat + 32 then some (BitVec.ofNat 5 (addr.toNat - base.toNat))
  else none

end Sys2Proof
end

