-- ==== Sys2Proof/Machine/State.lean ====
section
/-! DEFINITION. The state of OOKTX (R19, R38), its reset value (R122), and the reasons a step could stop. -/

namespace Sys2Proof.Machine

/-- Reasons a step stops with a fault. There is none: the block has no traps (R109, R113), a bus error is the response
of an access after which the block keeps running (R46, R110), and the cases that `93_implementation_defined.md` calls
faults (I11, I12) cannot be written down in this model's types (log entries 7, 9, 18). Safe. -/
inductive Fault where
deriving DecidableEq, Repr

/-- Reasons an instruction is refused. -/
inductive Refusal where
  /-- Raised by an arm of `exec` whose instruction has no meaning yet; no arm raises it. Safe: nothing is run. -/
  | notModelled (mnemonic : String)
deriving DecidableEq, Repr

/-- The sequencer's phase (R34, R38). -/
inductive Phase where
  | idle
  | bit
  | gap
deriving DecidableEq, Repr

/-- A captured pulse width: 250, 350 or 420 microseconds, and nothing else (R6, R38). -/
inductive PulseWidth where
  | lrn
  | smp
  | hle
deriving DecidableEq, Repr

/-- One slot-start event of the trace (R89). -/
structure SlotEvent where
  time : Word
  level : Bool
  rep : BitVec 8
  replay : BitVec 3
  bit : BitVec 16
deriving DecidableEq, Repr

/-- What the bus outputs present in the cycle of an access (R14, R44, R46). -/
inductive BusResponse where
  /-- A legal read: `bus_err` = 0 and `bus_rdata` the register's value. -/
  | data (v : Word)
  /-- A legal write: `bus_err` = 0; the spec states no `bus_rdata` (log entry 8). -/
  | written
  /-- An access that is misaligned or to offset 0x1C: `bus_err` = 1, `bus_rdata` = 0. -/
  | busError
deriving DecidableEq, Repr

/-- A host-visible fault on record: a `BusError` access (R46, R110), by the time and the access that met it. -/
structure HostFault where
  time : Word
  write : Bool
  addr : BitVec 5
deriving DecidableEq, Repr

/-- The state of the block, and beside it what the model records and what the environment presents. -/
structure State where
  /-- CMD (R20). -/
  cmd : CmdReg
  /-- IDENT (R25). -/
  ident : Word
  /-- STATUS.DONE (R29). -/
  done : Bool
  /-- STATUS.ERR_BUSY (R30). -/
  errBusy : Bool
  /-- STATUS.ERR_VARIANT (R31). -/
  errVariant : Bool
  /-- STATUS.OOR (R32). -/
  oor : Bool
  /-- NOW (R35). -/
  now : Word
  /-- LEN[15:0] (R36). -/
  len : BitVec 16
  /-- The sequencer phase (R34, R38), which BUSY and PHASE read. -/
  phase : Phase
  /-- The captured bit sequence, exactly its LEN meaningful bits (R38, R40). -/
  seq : Bits
  /-- The captured pulse width (R38). -/
  capW : PulseWidth
  /-- The captured repetition count (R38). -/
  capReps : BitVec 8
  /-- The current repetition (R38), POS.REP. -/
  rep : BitVec 8
  /-- The current replay (R38), POS.REPLAY. -/
  replay : BitVec 3
  /-- The current slot index (R38), POS.BIT. -/
  bit : BitVec 16
  /-- The time at which the current slot or gap ends (R38). -/
  deadline : Word
  /-- The level driven on `ook_out` (R33, R38). -/
  pin : Bool
  /-- The bus outputs of the cycle just performed, where that cycle held an access (R14). -/
  busOut : Option BusResponse
  /-- The slot-start event trace, oldest first; the block never reads it (R89). -/
  events : List SlotEvent
  /-- The host-visible faults on record, oldest first; the block never reads it (R46, R110). -/
  hostFaults : List HostFault
  /-- What the environment presents in the coming cycles, next first (R13, R15; log entry 4). -/
  agenda : List HostAction
deriving DecidableEq, Repr

/-- The state right after reset (R122), with nothing recorded and nothing presented. The spec gives `seq`, `capW` and
`capReps` no value (R122, I10): DESIGN CHOICE, unsafe, log entry 1. -/
def State.reset : State where
  cmd := ⟨0b00, false, 1, 4⟩
  ident := 0
  done := false
  errBusy := false
  errVariant := false
  oor := false
  now := 0
  len := 0
  phase := .idle
  seq := []
  capW := .lrn
  capReps := 0
  rep := 0
  replay := 0
  bit := 0
  deadline := 0
  pin := false
  busOut := none
  events := []
  hostFaults := []
  agenda := []

end Sys2Proof.Machine
end

