-- ==== Sys2Proof/Machine/Operands.lean ====
section
/-! DEFINITION. Operand assembly (R62): which bits of the captured words each variant uses, and the lookups from
an operand to its digits (R72, R73, R78, R81). -/

namespace Sys2Proof.Machine

/-- The house nibble, `IDENT[7:4]` (R62). -/
def house (ident : Word) : BitVec 4 := ident.extractLsb' 4 4

/-- The unit nibble, `IDENT[3:0]` (R62). -/
def unitNibble (ident : Word) : BitVec 4 := ident.extractLsb' 0 4

/-- The 26 Learning identity digits, `IDENT[25]` first (R72): `bin_26(IDENT[25:0])`. -/
def identityDigits (ident : Word) : List Bool :=
  (List.range 26).map fun i => ident.getLsbD (25 - i)

/-- The Learning unit selector's digits (R73): none for a unit outside 1 to 4. -/
def lrnUnitDigits (unit : BitVec 4) : List Bool :=
  if unit = 1 then [true, true]
  else if unit = 2 then [true, false]
  else if unit = 3 then [false, true]
  else if unit = 4 then [false, false]
  else []

/-- `smpHouse(h)` (R78): none for a house below 0xA. -/
def smpHouseDigits (P : Params) (h : BitVec 4) : List Digit :=
  if 0xA ≤ h.toNat then P.smpHouse.toList.getD (h.toNat - 0xA) [] else []

/-- `smpUnit(u)` (R78): none for a unit outside 1 to 8. -/
def smpUnitDigits (P : Params) (u : BitVec 4) : List Digit :=
  if 1 ≤ u.toNat ∧ u.toNat ≤ 8 then P.smpUnit.toList.getD (u.toNat - 1) [] else []

/-- `hleHouse(h)` (R81): none for a house below 0xA. -/
def hleHouseDigits (P : Params) (h : BitVec 4) : List Digit :=
  if 0xA ≤ h.toNat then P.hleHouse.toList.getD (h.toNat - 0xA) [] else []

/-- `hleUnit(u)` (R81): none for a unit outside 1 to 4. -/
def hleUnitDigits (P : Params) (u : BitVec 4) : List Digit :=
  if 1 ≤ u.toNat ∧ u.toNat ≤ 4 then P.hleUnit.toList.getD (u.toNat - 1) [] else []

/-- The Learning activation digit, inverted: `'0'` means on (R74). -/
def lrnActDigit (act : Bool) : Bool := if act then false else true

/-- The tri-state activation digit: `'X'` is on, `'0'` is off (R77). -/
def triActDigit (act : Bool) : Digit := if act then .x else .zero

end Sys2Proof.Machine
end

