-- ==== Sys2Proof/Machine/Flags.lean ====
section
/-! DEFINITION. The flags: how BUSY, PHASE and PIN read the current state, how the out-of-table flag of a command is
computed (R84), the STATUS word (R27) and its write-1-to-clear (R27). -/

namespace Sys2Proof.Machine

/-- STATUS.BUSY (R28, R39). -/
def State.busy (s : State) : Bool := s.phase != .idle

/-- The STATUS.PHASE encoding (R34). -/
def phaseCode : Phase → BitVec 2
  | .idle => 0
  | .bit => 1
  | .gap => 2

/-- STATUS as a read returns it (R27). -/
def statusWord (s : State) : Word :=
  0#24 ++ phaseCode s.phase ++ BitVec.ofBool s.pin ++ BitVec.ofBool s.oor ++ BitVec.ofBool s.errVariant ++
    BitVec.ofBool s.errBusy ++ BitVec.ofBool s.done ++ BitVec.ofBool s.busy

/-- A write of `v` to STATUS: a 1 clears its W1C bit, a 0 leaves it (R27, R48). -/
def clearStatus (v : Word) (s : State) : State :=
  { s with
    done := if v.getLsbD 1 then false else s.done
    errBusy := if v.getLsbD 2 then false else s.errBusy
    errVariant := if v.getLsbD 3 then false else s.errVariant }

/-- The out-of-table flag of a Learning command (R74, R84). -/
def lrnOor (unit : BitVec 4) : Bool := decide (unit.toNat < 1 ∨ unit.toNat > 4)

/-- The out-of-table flag of a Simple command (R79, R84). -/
def smpOor (ident : Word) : Bool :=
  decide ((house ident).toNat < 0xA ∨ (unitNibble ident).toNat < 1 ∨ (unitNibble ident).toNat > 8)

/-- The out-of-table flag of a HellE command (R82, R84). -/
def hleOor (ident : Word) : Bool :=
  decide ((house ident).toNat < 0xA ∨ (unitNibble ident).toNat < 1 ∨ (unitNibble ident).toNat > 4)

end Sys2Proof.Machine
end

