-- ==== Sys2Proof/Machine/Encoder.lean ====
section
/-! DEFINITION. The encoder family (R69 to R87): symbolic packets and their expansion into physical bits. It is a pure
function of a command and the parameters (R85). -/

namespace Sys2Proof.Machine

/-- A symbol of a Learning packet: the symbols of R66 that the Learning table expands (R69; `'X'` never occurs, log
entry 9). -/
inductive LrnSymbol where
  | start
  | digit (one : Bool)
  | stop
deriving DecidableEq, Repr

/-- A symbol of a Simple or HellE packet: the symbols of R66 that the tri-state table expands (R70; `START` never
occurs, log entry 9). -/
inductive TriSymbol where
  | digit (d : Digit)
  | stop
deriving DecidableEq, Repr

/-- `LRN_START` (R6): a 1 and 10 zeros. -/
def lrnStartBits : Bits := [true, false, false, false, false, false, false, false, false, false, false]

/-- `LRN_D0` (R6): `10000001`. -/
def lrnD0Bits : Bits := [true, false, false, false, false, false, false, true]

/-- `LRN_D1` (R6): `11000000`. -/
def lrnD1Bits : Bits := [true, true, false, false, false, false, false, false]

/-- `LRN_STOP` (R6): a 1 and 42 zeros. -/
def lrnStopBits : Bits := true :: List.replicate 42 false

/-- The Learning expansion `expL` (R69). -/
def expL : LrnSymbol → Bits
  | .start => lrnStartBits
  | .digit one => if one then lrnD1Bits else lrnD0Bits
  | .stop => lrnStopBits

/-- The bits of a digit in the tri-state table `TRI_BITS` (R8, R70). -/
def triDigitBits (P : Params) : Digit → Bits
  | .zero => P.tri0
  | .one => P.tri1
  | .x => P.triX

/-- The tri-state expansion `expT` (R70). -/
def expT (P : Params) : TriSymbol → Bits
  | .digit d => triDigitBits P d
  | .stop => P.triStop

/-- The Learning packet (R74). -/
def lrnPacket (P : Params) (ident : Word) (unit : BitVec 4) (act : Bool) : List LrnSymbol :=
  [.start] ++ (identityDigits ident).map .digit ++ [.digit P.lrnGroup] ++ [.digit (lrnActDigit act)] ++
    [.digit P.lrnTail1, .digit P.lrnTail0] ++ (lrnUnitDigits unit).map .digit ++ [.stop]

/-- The packet of a tri-state variant: house, unit, padding, activation, stop (R79, R82). -/
def triPacket (houseDigits unitDigits pad : List Digit) (act : Bool) : List TriSymbol :=
  (houseDigits ++ unitDigits ++ pad ++ [triActDigit act]).map .digit ++ [.stop]

/-- The Simple packet (R79). -/
def smpPacket (P : Params) (ident : Word) (act : Bool) : List TriSymbol :=
  triPacket (smpHouseDigits P (house ident)) (smpUnitDigits P (unitNibble ident)) P.smpPad act

/-- The HellE packet (R82). -/
def hlePacket (P : Params) (ident : Word) (act : Bool) : List TriSymbol :=
  triPacket (hleHouseDigits P (house ident)) (hleUnitDigits P (unitNibble ident)) P.hlePad act

/-- What the encoder gives START: the bit sequence, the pulse width and the out-of-table flag (R71). -/
structure Encoded where
  seq : Bits
  width : PulseWidth
  oor : Bool
deriving DecidableEq, Repr

/-- `encodeLearning` (R75). -/
def encodeLearning (P : Params) (ident : Word) (unit : BitVec 4) (act : Bool) : Encoded where
  seq := (lrnPacket P ident unit act).flatMap expL
  width := .lrn
  oor := lrnOor unit

/-- `encodeSimple` (R80). -/
def encodeSimple (P : Params) (ident : Word) (act : Bool) : Encoded where
  seq := (smpPacket P ident act).flatMap (expT P)
  width := .smp
  oor := smpOor ident

/-- `encodeHellE` (R83). -/
def encodeHellE (P : Params) (ident : Word) (act : Bool) : Encoded where
  seq := (hlePacket P ident act).flatMap (expT P)
  width := .hle
  oor := hleOor ident

/-- The dispatch of the encoder (R71): no encoding of the reserved variant is ever evaluated. -/
def encodeCommand (P : Params) : Instr → Option Encoded
  | .txLrn ident unit act _ => some (encodeLearning P ident unit act)
  | .txSmp ident _ act _ => some (encodeSimple P ident act)
  | .txHle ident _ act _ => some (encodeHellE P ident act)
  | .reserved _ _ _ _ => none

end Sys2Proof.Machine
end

