-- ==== Sys2Proof/Machine/Ops.lean ====
section
/-! DEFINITION. The shared operations: the error reports (R109), START (R90), the slot primitive (R88), the tick and
the sequencer (R97 to R100), and reset (R122). The block has no trap entry and no return (R113, R114): raising a flag
is all that an error does. -/

namespace Sys2Proof.Machine

/-- The slot length in microseconds: `W_LRN`, `W_SMP`, `W_HLE` (R6). -/
def widthUs : PulseWidth → Word
  | .lrn => 250
  | .smp => 350
  | .hle => 420

/-- `N_REPLAY` (R6). -/
def nReplay : BitVec 3 := 5

/-- `GAP_US` (R6). -/
def gapUs : Word := 35000

/-- Bit `k` of the captured sequence. At an index that holds no defined value the bit is free (R40, log entry 3). -/
def seqBit (s : State) (k : Nat) : Bool := s.seq.getD k (Config.unheldBit k)

/-- `raise ErrBusy` (R109): the sticky flag, and nothing else. -/
def raiseErrBusy (s : State) : State := { s with errBusy := true }

/-- `raise ErrVariant` (R109): the sticky flag, and nothing else. -/
def raiseErrVariant (s : State) : State := { s with errVariant := true }

/-- `raise BusError` (R46, R110): the access completes with `bus_err` = 1 and data 0, the fault goes on record, and
the block is unaffected. -/
def raiseBusError (write : Bool) (addr : BitVec 5) (s : State) : State :=
  { s with busOut := some .busError, hostFaults := s.hostFaults ++ [⟨s.now, write, addr⟩] }

/-- `emit(b)` (R88, R89): start one slot with level `b`. -/
def emit (b : Bool) (s : State) : State :=
  { s with
    deadline := s.deadline + widthUs s.capW
    pin := b
    events := s.events ++ [⟨s.now, b, s.rep, s.replay, s.bit⟩] }

/-- The capture of an accepted START (R57, R90): the encoded command and its repetition count; OOR is rewritten and
DONE cleared. -/
def capture (e : Encoded) (reps : BitVec 8) (s : State) : State :=
  { s with
    seq := e.seq
    len := BitVec.ofNat 16 e.seq.length
    capW := e.width
    capReps := reps
    oor := e.oor
    done := false }

/-- The first slot of a transmission (R90): position (0, 0, 0), the deadline started at NOW, `emit(seq[0])`. -/
def beginTransmission (s : State) : State :=
  let s1 := { s with rep := 0, replay := 0, bit := 0, phase := .bit, deadline := s.now }
  emit (seqBit s1 0) s1

/-- START after its two checks (R90, R95). -/
def acceptStart (e : Encoded) (reps : BitVec 8) (s : State) : State :=
  let s1 := capture e reps s
  if reps = 0 then { s1 with done := true } else beginTransmission s1

/-- START of a command that an encoder takes (R90): refused while BUSY. -/
def start (e : Encoded) (reps : BitVec 8) (s : State) : State :=
  if s.busy then raiseErrBusy s else acceptStart e reps s

/-- START of the reserved variant (R90, R94): the busy check comes first. -/
def startReserved (s : State) : State :=
  if s.busy then raiseErrBusy s else raiseErrVariant s

/-- Completion (R100). -/
def complete (s : State) : State :=
  { s with rep := 0, replay := 0, bit := 0, phase := .idle, done := true }

/-- The end of a slot (R98). -/
def slotEnd (s : State) : State :=
  let s1 := { s with bit := s.bit + 1 }
  if s1.bit < s1.len then emit (seqBit s1 s1.bit.toNat) s1
  else
    let s2 := { s1 with bit := 0, replay := s1.replay + 1 }
    if s2.replay < nReplay then emit (seqBit s2 0) s2
    else { s2 with replay := 0, phase := .gap, deadline := s2.deadline + gapUs }

/-- The end of a gap (R99). -/
def gapEnd (s : State) : State :=
  let s1 := { s with rep := s.rep + 1 }
  if s1.rep < s1.capReps then
    let s2 := { s1 with phase := .bit }
    emit (seqBit s2 0) s2
  else complete s1

/-- The sequencer's part of a tick, after NOW has advanced (R97). -/
def sequence (s : State) : State :=
  match s.phase with
  | .idle => s
  | .bit => if s.now = s.deadline then slotEnd s else s
  | .gap => if s.now = s.deadline then gapEnd s else s

/-- One microsecond tick (R97). -/
def tick (s : State) : State := sequence { s with now := s.now + 1 }

/-- One reset step (R122): every piece of the block's state at its reset value. What the model records and what the
environment presents is no state of the block and stays (log entry 11). -/
def resetStep (s : State) : State :=
  { State.reset with events := s.events, hostFaults := s.hostFaults, agenda := s.agenda }

end Sys2Proof.Machine
end

