-- ==== Sys2Proof/Machine/Transmit.lean ====
section
/-! DEFINITION. The transmit family: the meaning of each command, executed by START (R90 to R95). -/

namespace Sys2Proof.Machine

/-- `TX.LRN` (R91): START with the Learning encoder. -/
def execTxLrn (ident : Word) (unit : BitVec 4) (act : Bool) (reps : BitVec 8) (s : State) :
    Host.Outcome State Fault Refusal :=
  .next (start (encodeLearning Config.params ident unit act) reps s)

/-- `TX.SMP` (R92): START with the Simple encoder; CMD.UNIT is ignored. -/
def execTxSmp (ident : Word) (act : Bool) (reps : BitVec 8) (s : State) : Host.Outcome State Fault Refusal :=
  .next (start (encodeSimple Config.params ident act) reps s)

/-- `TX.HLE` (R93): START with the HellE encoder; CMD.UNIT is ignored. -/
def execTxHle (ident : Word) (act : Bool) (reps : BitVec 8) (s : State) : Host.Outcome State Fault Refusal :=
  .next (start (encodeHellE Config.params ident act) reps s)

/-- `(reserved)` (R94): the refusal that the spec gives as its effect, a sticky error flag and nothing else. -/
def execReserved (s : State) : Host.Outcome State Fault Refusal := .next (startReserved s)

end Sys2Proof.Machine
end

