-- ==== Sys2Proof/Machine/Dispatch.lean ====
section
/-! DEFINITION. One arm per command. -/

namespace Sys2Proof.Machine

/-- What START does with a command (R63, R90). -/
def exec (i : Instr) (s : State) : Host.Outcome State Fault Refusal :=
  match i with
  | .txLrn ident unit act reps => Sys2Proof.Machine.execTxLrn ident unit act reps s
  | .txSmp ident _ act reps => Sys2Proof.Machine.execTxSmp ident act reps s
  | .txHle ident _ act reps => Sys2Proof.Machine.execTxHle ident act reps s
  | .reserved _ _ _ _ => Sys2Proof.Machine.execReserved s

end Sys2Proof.Machine
end

