-- ==== Sys2Proof/Machine/Bus.lean ====
section
/-! DEFINITION. The register bus (R44 to R51), one `clk` cycle (R15), the host-program notation (R67, R68) and the
bring-up of a command. -/

namespace Sys2Proof.Machine

/-- LEN as a read returns it (R36). -/
def lenWord (s : State) : Word := 0#16 ++ s.len

/-- POS as a read returns it (R37). -/
def posWord (s : State) : Word := s.rep ++ 0#5 ++ s.replay ++ s.bit

/-- The value of a register (R19, R47): reserved bits 0, CTRL 0. -/
def readReg (r : Reg) (s : State) : Word :=
  match r with
  | .cmd => wordOfCmd s.cmd
  | .ident => s.ident
  | .ctrl => 0
  | .status => statusWord s
  | .now => s.now
  | .len => lenWord s
  | .pos => posWord s

/-- The command in CMD and IDENT at this instant (R57, R61). -/
def fetchCommand (s : State) : Instr := decodeFields s.cmd s.ident

/-- A write of `v` to a register (R48). A write of CTRL with bit 0 = 1 executes the command in CMD and IDENT. -/
def writeReg (r : Reg) (v : Word) (s : State) : Host.Outcome State Fault Refusal :=
  match r with
  | .cmd => .next { s with cmd := cmdOfWord v }
  | .ident => .next { s with ident := v }
  | .ctrl => if v.getLsbD 0 then exec (fetchCommand s) s else .next s
  | .status => .next (clearStatus v s)
  | .now => .next s
  | .len => .next s
  | .pos => .next s

/-- The bus outputs of this cycle: a legal write's response, once the write has its next state (R44). -/
def respondWritten : Host.Outcome State Fault Refusal → Host.Outcome State Fault Refusal
  | .next s => .next { s with busOut := some .written }
  | .fault f => .fault f
  | .refused r => .refused r

/-- `MemRead` (R47). -/
def memRead (addr : BitVec 5) (s : State) : State :=
  match regAt addr with
  | some r => { s with busOut := some (.data (readReg r s)) }
  | none => raiseBusError false addr s

/-- `MemWrite` (R48). -/
def memWrite (addr : BitVec 5) (v : Word) (s : State) : Host.Outcome State Fault Refusal :=
  match regAt addr with
  | some r => respondWritten (writeReg r v s)
  | none => .next (raiseBusError true addr s)

/-- One bus access (R44). -/
def access (write : Bool) (addr : BitVec 5) (v : Word) (s : State) : Host.Outcome State Fault Refusal :=
  if write then memWrite addr v s else .next (memRead addr s)

/-- One `clk` cycle (R15, R112): reset and nothing else; or the tick and then the access. -/
def clkCycle (c : ClkInput) (s : State) : Host.Outcome State Fault Refusal :=
  if c.rst then .next (resetStep s)
  else
    let s1 := { s with busOut := none }
    let s2 := if c.usTick then tick s1 else s1
    if c.busSel then access c.busWr c.busAddr c.busWdata s2 else .next s2

/-- A cycle with a tick and no access. -/
def tickCycle : ClkInput := ⟨false, true, false, false, 0, 0⟩

/-- A cycle with a read and no tick. -/
def readCycle (addr : BitVec 5) : ClkInput := ⟨false, false, true, false, addr, 0⟩

/-- A cycle with a write and no tick. -/
def writeCycle (addr : BitVec 5) (v : Word) : ClkInput := ⟨false, false, true, true, addr, v⟩

/-- The cycle by which the platform presents an access to a 32-bit address, or none where the address is outside the
block's window at `P_BASE` (R12, R52). -/
def cycleAt (P : Params) (write : Bool) (addr v : Word) : Option ClkInput :=
  (windowOffset P.pBase addr).map fun off => ⟨false, false, true, write, off, v⟩

/-- A reset cycle. -/
def resetCycle : ClkInput := ⟨true, false, false, false, 0, 0⟩

/-- The value a read sees in its cycle: 0 with a bus error (R46). -/
def readValue (addr : BitVec 5) (s : State) : Word :=
  match regAt addr with
  | some r => readReg r s
  | none => 0

/-- The input ports of the cycle that comes next: the agenda's first entry, a `WAIT` loop's read (R67), or, with
nothing presented, a tick of the time base (R125; log entry 4). -/
def nextInput (s : State) : ClkInput :=
  match s.agenda with
  | [] => tickCycle
  | .cycle c :: _ => c
  | .wait addr _ _ :: _ => readCycle addr

/-- What the environment presents after the next cycle. A `WAIT` loop whose read does not match goes on with one tick
and the loop again (R67; log entry 15). -/
def nextAgenda (s : State) : List HostAction :=
  match s.agenda with
  | [] => []
  | .cycle _ :: rest => rest
  | .wait addr mask value :: rest =>
    if readValue addr s &&& mask = value then rest
    else .cycle tickCycle :: .wait addr mask value :: rest

/-- One `clk` cycle with what the environment presents next. -/
def runAgenda (s : State) : Host.Outcome State Fault Refusal :=
  clkCycle (nextInput s) { s with agenda := nextAgenda s }

/-- The CMD word of a pseudo-instruction: `(n << 8) | (u << 4) | (a << 2) | v` (R68). -/
def macroWord (n u : Nat) (a : Bool) (v : Nat) : Word :=
  BitVec.ofNat 32 (n <<< 8) ||| BitVec.ofNat 32 (u <<< 4) ||| BitVec.ofNat 32 (a.toNat <<< 2) ||| BitVec.ofNat 32 v

/-- The three writes of a `TX.*` pseudo-instruction (R68): IDENT, CMD, CTRL. -/
def txActions (ident cmdWord : Word) : List HostAction :=
  [.cycle (writeCycle Reg.ident.offset ident), .cycle (writeCycle Reg.cmd.offset cmdWord),
   .cycle (writeCycle Reg.ctrl.offset 1)]

/-- What a host statement presents (R67), a pseudo-instruction through its expansion (R68). -/
def stmtActions : Stmt → List HostAction
  | .wr addr value => [.cycle (writeCycle addr value)]
  | .rd addr => [.cycle (readCycle addr)]
  | .tick n => List.replicate n (.cycle tickCycle)
  | .wait addr mask value => [.wait addr mask value]
  | .rst => [.cycle resetCycle]
  | .txLrn ident u a n => txActions ident (macroWord n u a 0)
  | .txSmp ident a n => txActions ident (macroWord n 0 a 1)
  | .txHle ident a n => txActions ident (macroWord n 0 a 2)
  | .waitIdle => [.wait Reg.status.offset 0x1 0x0]
  | .clr mask => [.cycle (writeCycle Reg.status.offset mask)]

/-- The state with a host program to run next (R67). -/
def State.withProgram (s : State) (p : List Stmt) : State :=
  { s with agenda := p.flatMap stmtActions ++ s.agenda }

/-- The state with a command's words in CMD and IDENT and the write of CTRL that executes it presented next. -/
def bringUp (w : CommandWords) (s : State) : State :=
  { s with
    cmd := cmdOfWord w.cmd
    ident := w.ident
    agenda := .cycle (writeCycle Reg.ctrl.offset 1) :: s.agenda }

end Sys2Proof.Machine
end

