-- ==== Sys2Proof/Machine/Step.lean ====
section
/-! DEFINITION. The step: one `clk` cycle. -/

namespace Sys2Proof.Machine

/-- One step: one `clk` cycle with what the environment presents next (R15). -/
def step (s : State) : Host.Outcome State Fault Refusal := runAgenda s

/-- `s` with the command of a numbered table word about to be executed: its words in CMD and IDENT, and the write of
CTRL that executes it in the very next cycle (R61; log entry 5). -/
def State.withFetchWord (s : State) (nbits w : Nat) : State := bringUp (tableWords nbits w) s

end Sys2Proof.Machine
end

