-- ==== Sys2Proof/Safety.lean ====
section
/-! DEFINITION. The terms that claims use: the invariant of the reachable states (R39, R102, R105), what a cycle
presents, the view that the sequencer has of the state, and the closed form of a transmission (R106, R107). -/

namespace Sys2Proof.Machine

/-- The sequence buffer: exactly LEN bits (R40), at most P_SEQ_MAX (K7), the last one 0 (R102). -/
def SeqHeld (s : State) : Prop :=
  s.seq.length = s.len.toNat ∧ s.seq.length ≤ Config.params.pSeqMax ∧ s.seq.getLast? ≠ some true

/-- The ticks left until the deadline, between 1 and `limit` (R105). -/
def DeadlineWithin (limit : Nat) (s : State) : Prop :=
  1 ≤ (s.deadline - s.now).toNat ∧ (s.deadline - s.now).toNat ≤ limit

/-- What holds of the position, the pin and the deadline in each phase (R39, R102, R105). -/
def PhaseHeld (s : State) : Prop :=
  match s.phase with
  | .idle => s.rep = 0 ∧ s.replay = 0 ∧ s.bit = 0 ∧ s.pin = false
  | .bit =>
    s.rep < s.capReps ∧ s.replay < 5 ∧ s.bit < s.len ∧ s.seq[s.bit.toNat]? = some s.pin ∧
      DeadlineWithin (widthUs s.capW).toNat s
  | .gap =>
    s.rep < s.capReps ∧ s.replay = 0 ∧ s.bit = 0 ∧ s.pin = false ∧ 1 ≤ s.len ∧ DeadlineWithin 35000 s

/-- The bits of a Learning digit (R6, R69). -/
def learningDigitBits (one : Bool) : Bits :=
  if one then [true, true, false, false, false, false, false, false]
  else [true, false, false, false, false, false, false, true]

/-- Two sequences of one length differ, and only inside the `n` bits from bit `b` on. -/
def DifferOnlyIn (b n : Nat) (q q' : Bits) : Prop :=
  q.length = q'.length ∧ q ≠ q' ∧ ∀ k, k < b ∨ b + n ≤ k → q[k]? = q'[k]?

/-- The invariant of the machine. -/
def Inv (s : State) : Prop := SeqHeld s ∧ PhaseHeld s

/-- What R39 lists of every reachable state, in its order. -/
def ReachableFacts (s : State) : Prop :=
  ((statusWord s).getLsbD 0 = true ↔ s.phase ≠ .idle) ∧
  (s.phase = .idle → s.rep = 0 ∧ s.replay = 0 ∧ s.bit = 0) ∧
  (s.phase = .bit → 1 ≤ s.capReps ∧ s.rep < s.capReps ∧ s.replay < 5 ∧ s.bit < s.len ∧
    s.seq[s.bit.toNat]? = some s.pin) ∧
  (s.phase = .gap → s.rep < s.capReps ∧ s.replay = 0 ∧ s.bit = 0) ∧
  (s.phase ≠ .idle → 1 ≤ s.len)

/-- The cycle writes `v` to the register `r`, and reset is low. -/
def writesReg (r : Reg) (v : Word) (c : ClkInput) : Prop :=
  c.rst = false ∧ c.busSel = true ∧ c.busWr = true ∧ c.busAddr = r.offset ∧ c.busWdata = v

/-- The cycle presents a START: a write of CTRL with bit 0 = 1 (R61). -/
def presentsStart (c : ClkInput) : Prop := ∃ v, writesReg .ctrl v c ∧ v.getLsbD 0 = true

/-- The state in which the access of the next cycle happens: the agenda moved on, no response yet, and the tick of
that cycle done if it has one (R15, R112). -/
def accessState (s : State) : State :=
  let u := { s with agenda := nextAgenda s, busOut := none }
  if (nextInput s).usTick then tick u else u

/-- The value of a register as a number, field by field with each field's place (R19, R20, R27, R36, R37). -/
def registerValue (r : Reg) (s : State) : Nat :=
  match r with
  | .cmd => s.cmd.variant.toNat + 4 * s.cmd.act.toNat + 16 * s.cmd.unit.toNat + 256 * s.cmd.reps.toNat
  | .ident => s.ident.toNat
  | .ctrl => 0
  | .status =>
    (match s.phase with | .idle => 0 | .bit => 65 | .gap => 129) + 2 * s.done.toNat + 4 * s.errBusy.toNat +
      8 * s.errVariant.toNat + 16 * s.oor.toNat + 32 * s.pin.toNat
  | .now => s.now.toNat
  | .len => s.len.toNat
  | .pos => s.bit.toNat + 65536 * s.replay.toNat + 16777216 * s.rep.toNat

/-- All of the state that the sequencer reads or writes, with the trace: no host register is in it. -/
structure SequencerView where
  now : Word
  phase : Phase
  seq : Bits
  len : BitVec 16
  capW : PulseWidth
  capReps : BitVec 8
  rep : BitVec 8
  replay : BitVec 3
  bit : BitVec 16
  deadline : Word
  pin : Bool
  events : List SlotEvent
deriving DecidableEq, Repr

/-- The sequencer's view of a state. -/
def sequencerView (s : State) : SequencerView where
  now := s.now
  phase := s.phase
  seq := s.seq
  len := s.len
  capW := s.capW
  capReps := s.capReps
  rep := s.rep
  replay := s.replay
  bit := s.bit
  deadline := s.deadline
  pin := s.pin
  events := s.events

/-- `n` ticks with nothing between them (R67 `TICK n`). -/
def ticks : Nat → State → State
  | 0, s => s
  | n + 1, s => ticks n (tick s)

/-- The cycles of a list, one after the other. -/
def runCycles : List ClkInput → State → Host.Outcome State Fault Refusal
  | [], s => .next s
  | c :: rest, s =>
    match clkCycle c s with
    | .next s' => runCycles rest s'
    | .fault f => .fault f
    | .refused r => .refused r

/-- How many of the cycles hold a tick. -/
def tickCount (cs : List ClkInput) : Nat := (cs.filter fun c => c.usTick).length

/-- The repetition count of a command. -/
def repsOf : Instr → BitVec 8
  | .txLrn _ _ _ reps => reps
  | .txSmp _ _ _ reps => reps
  | .txHle _ _ _ reps => reps
  | .reserved _ _ _ reps => reps

/-- The slot length of an encoded command in microseconds. -/
def slotUs (e : Encoded) : Nat := (widthUs e.width).toNat

/-- The five replays of a frame in microseconds: 5·L·W (R106). -/
def frameGroupUs (e : Encoded) : Nat := 5 * e.seq.length * slotUs e

/-- One repetition with its gap: P = 5·L·W + 35 000 (R106). -/
def periodUs (e : Encoded) : Nat := frameGroupUs e + 35000

/-- The time `m` microseconds after `t0`, modulo 2^32. -/
def timeAfter (t0 : Word) (m : Nat) : Word := t0 + BitVec.ofNat 32 m

/-- R106: the state `t`, `m` microseconds after a START at `t0`, is in slot (r, p, k) of the transmission. -/
def InSlot (e : Encoded) (t0 : Word) (r p k : Nat) (t : State) : Prop :=
  t.phase = .bit ∧ t.rep.toNat = r ∧ t.replay.toNat = p ∧ t.bit.toNat = k ∧ e.seq[k]? = some t.pin ∧
    t.deadline = timeAfter t0 (r * periodUs e + (p * e.seq.length + k + 1) * slotUs e)

/-- R106: the state `t` is in gap `r` of the transmission. -/
def InGap (e : Encoded) (t0 : Word) (r : Nat) (t : State) : Prop :=
  t.phase = .gap ∧ t.rep.toNat = r ∧ t.replay = 0 ∧ t.bit = 0 ∧ t.pin = false ∧
    t.deadline = timeAfter t0 ((r + 1) * periodUs e)

/-- The slot-start events of a transmission of `e` with `n` repetitions started at `t0`, in order (R106, R107). -/
def scheduledEvents (e : Encoded) (n : Nat) (t0 : Word) : List SlotEvent :=
  (List.range n).flatMap fun r =>
    (List.range 5).flatMap fun p =>
      (List.range e.seq.length).map fun k =>
        { time := timeAfter t0 (r * periodUs e + (p * e.seq.length + k) * slotUs e)
          level := e.seq.getD k false
          rep := BitVec.ofNat 8 r
          replay := BitVec.ofNat 3 p
          bit := BitVec.ofNat 16 k }

end Sys2Proof.Machine
end

