-- ==== Sys2Proof/Certificates/Slice0/Obligations.lean ====
section
/-! DEFINITION. The statements about the machine, each citing the rule of the spec it rests on. -/

open Sys2Proof Sys2Proof.Machine

/-! ### Encoding -/

/-- Every command is what its two words decode to, every operand at every value (R60, R63). -/
def Obligations.DecodeOfEncodeIsTheCommand : Prop :=
  ∀ i : Instr, decode (encode i) = i

/-- Every pair of words in canonical form is what its command encodes to (R60, R63). -/
def Obligations.EncodeOfDecodeIsTheCanonicalPair : Prop :=
  ∀ w : CommandWords, w.canonical = true → encode (decode w) = w

/-- CMD bits 31:16 and 3 never change which command executes, nor its operands (R64). -/
def Obligations.ReservedCmdBitsNeverChangeTheCommand : Prop :=
  ∀ (v v' ident : Word), (∀ k, k < 16 → k ≠ 3 → v.getLsbD k = v'.getLsbD k) →
    decode ⟨v, ident⟩ = decode ⟨v', ident⟩

/-- A word belongs to exactly the opcode row whose mask and match it meets, and decodes to that row's command (R63). -/
def Obligations.OpcodeRowsSelectTheDecodedCommand : Prop :=
  ∀ (w : CommandWords) (r : OpcodeRow), r ∈ opcodeRows →
    (r.hits w.cmd = true ↔ mnemonic (decode w) = r.mnemonic)

/-- Words written out from the format of R60 and the programs of `95_test_vectors.md` decode to the commands they stand
for. -/
def Obligations.WrittenOutWordsDecode : Prop :=
  decode ⟨0b0000000000000000_00000001_0001_0_1_00#32, 0⟩ = .txLrn 0 1 true 1 ∧
  decode ⟨0b0000000000000000_00000001_0000_0_1_01#32, 0xA1⟩ = .txSmp 0xA1 0 true 1 ∧
  decode ⟨0b0000000000000000_00000010_0000_0_0_10#32, 0xA1⟩ = .txHle 0xA1 0 false 2 ∧
  decode ⟨0b0000000000000000_00000001_0000_0_1_11#32, 0⟩ = .reserved 0 0 true 1

/-- What the pseudo-instructions of R68 present: a `TX.*` is the write of IDENT, the write of its command's CMD word and
the write of 1 to CTRL, in this order and with no tick between them; the CMD word is the sum that R68 gives. `WAITIDLE`
waits for BUSY = 0, and `CLR` writes STATUS. -/
def Obligations.PseudoInstructionsWriteTheEncodedWord : Prop :=
  (∀ (ident : Word) (u n : Nat) (a : Bool), u < 16 → n < 256 →
    let write : BitVec 5 → Word → HostAction := fun off v => .cycle ⟨false, false, true, true, off, v⟩
    let lrn := (encode (.txLrn ident (BitVec.ofNat 4 u) a (BitVec.ofNat 8 n))).cmd
    let smp := (encode (.txSmp ident 0 a (BitVec.ofNat 8 n))).cmd
    let hle := (encode (.txHle ident 0 a (BitVec.ofNat 8 n))).cmd
    stmtActions (.txLrn ident u a n) = [write 0x04 ident, write 0x00 lrn, write 0x08 1] ∧
    stmtActions (.txSmp ident a n) = [write 0x04 ident, write 0x00 smp, write 0x08 1] ∧
    stmtActions (.txHle ident a n) = [write 0x04 ident, write 0x00 hle, write 0x08 1] ∧
    lrn.toNat = n * 256 + u * 16 + a.toNat * 4 ∧
    smp.toNat = n * 256 + a.toNat * 4 + 1 ∧
    hle.toNat = n * 256 + a.toNat * 4 + 2) ∧
  stmtActions .waitIdle = [.wait 0x0C 0x1 0x0] ∧
  ∀ mask : Word, stmtActions (.clr mask) = [.cycle ⟨false, false, true, true, 0x0C, mask⟩]

/-- What the host statements of R67 present: `WR` a write, `RD` a read, `TICK n` n ticks without an access, `WAIT` its
loop, `RST` a reset; no tick but where a `TICK` or `WAIT` says so. One cycle an access is the model's choice (log
entry 15). -/
def Obligations.HostStatementsPresentTheirCycles : Prop :=
  ∀ (addr : BitVec 5) (v mask : Word) (n : Nat),
    stmtActions (.wr addr v) = [.cycle ⟨false, false, true, true, addr, v⟩] ∧
    (∃ w, stmtActions (.rd addr) = [.cycle ⟨false, false, true, false, addr, w⟩]) ∧
    stmtActions (.tick n) = List.replicate n (.cycle ⟨false, true, false, false, 0, 0⟩) ∧
    stmtActions (.wait addr mask v) = [.wait addr mask v] ∧
    ∃ c, stmtActions .rst = [.cycle c] ∧ c.rst = true

/-! ### The encoder family -/

/-- The place of every group in a Learning sequence (R75): the start symbol, identity digit i at 11 + 8 i from
IDENT bit 25 - i, group separator, inverted activation, the two tail digits, the unit's two digits and the stop
symbol; without unit digits when the unit is out of table. -/
def Obligations.LearningSequenceLayout : Prop :=
  ∀ (P : Params) (ident : Word) (unit : BitVec 4) (act : Bool),
    let q := (encodeLearning P ident unit act).seq
    q.take 11 = true :: List.replicate 10 false ∧
    (∀ i, i < 26 → (q.drop (11 + 8 * i)).take 8 = learningDigitBits (ident.getLsbD (25 - i))) ∧
    (q.drop 219).take 8 = learningDigitBits P.lrnGroup ∧
    (q.drop 227).take 8 = learningDigitBits (!act) ∧
    (q.drop 235).take 8 = learningDigitBits P.lrnTail1 ∧
    (q.drop 243).take 8 = learningDigitBits P.lrnTail0 ∧
    (1 ≤ unit.toNat ∧ unit.toNat ≤ 4 →
      (q.drop 251).take 8 = learningDigitBits ((4 - unit.toNat).testBit 1) ∧
      (q.drop 259).take 8 = learningDigitBits ((4 - unit.toNat).testBit 0) ∧
      q.drop 267 = true :: List.replicate 42 false) ∧
    (¬(1 ≤ unit.toNat ∧ unit.toNat ≤ 4) → q.drop 251 = true :: List.replicate 42 false)

/-- The count that the spec infers in its R76 from R69 and R74: a Learning sequence has 310 bits with a unit in table
and 294 bits otherwise, whatever the other operands and the open parameters. -/
def Obligations.LearningSequenceLength : Prop :=
  ∀ (P : Params) (ident : Word) (unit : BitVec 4) (act : Bool),
    (encodeLearning P ident unit act).seq.length =
      if 1 ≤ unit.toNat ∧ unit.toNat ≤ 4 then 310 else 294

/-- Two Learning commands with units in table that give one sequence agree in all that the sequence carries: the low
26 identity bits, the activation and the unit (R72, R73, R74). -/
def Obligations.LearningSequenceDeterminesTheCommand : Prop :=
  ∀ (P : Params) (ident ident' : Word) (unit unit' : BitVec 4) (act act' : Bool),
    1 ≤ unit.toNat → unit.toNat ≤ 4 → 1 ≤ unit'.toNat → unit'.toNat ≤ 4 →
    (encodeLearning P ident unit act).seq = (encodeLearning P ident' unit' act').seq →
    (∀ k, k < 26 → ident.getLsbD k = ident'.getLsbD k) ∧ unit = unit' ∧ act = act'

/-- R73: the Learning unit digits of 1 to 4, and for every other value none and the command out of table. -/
def Obligations.LearningUnitSelectorDigits : Prop :=
  lrnUnitDigits 1 = [true, true] ∧ lrnUnitDigits 2 = [true, false] ∧ lrnUnitDigits 3 = [false, true] ∧
  lrnUnitDigits 4 = [false, false] ∧
  ∀ unit : BitVec 4,
    (1 ≤ unit.toNat ∧ unit.toNat ≤ 4 → lrnOor unit = false) ∧
    (¬(1 ≤ unit.toNat ∧ unit.toNat ≤ 4) → lrnUnitDigits unit = [] ∧ lrnOor unit = true)

/-- The identity bits and the unit field that a variant does not use have no effect on what START does (R62, R75,
R80, R83). -/
def Obligations.UnusedOperandBitsHaveNoEffect : Prop :=
  ∀ (ident ident' : Word) (unit unit' : BitVec 4) (act : Bool) (reps : BitVec 8) (s : State),
    ((∀ k, k < 26 → ident.getLsbD k = ident'.getLsbD k) →
      exec (.txLrn ident unit act reps) s = exec (.txLrn ident' unit act reps) s) ∧
    ((∀ k, k < 8 → ident.getLsbD k = ident'.getLsbD k) →
      exec (.txSmp ident unit act reps) s = exec (.txSmp ident' unit' act reps) s ∧
      exec (.txHle ident unit act reps) s = exec (.txHle ident' unit' act reps) s)

/-- The tri-state sequences (R78 to R83): the house's entry, the unit's entry, the padding and the activation digit,
each digit by the tri-state table, and then the stop bits; the house and the unit are the two nibbles of the identity
byte, and a value with no entry contributes nothing. -/
def Obligations.TriStateSequencesFollowTheTables : Prop :=
  ∀ (P : Params) (ident : Word) (act : Bool),
    let h := ident.toNat / 16 % 16
    let u := ident.toNat % 16
    let bits : Digit → Bits := fun d => match d with | .zero => P.tri0 | .one => P.tri1 | .x => P.triX
    let onOff : Digit := if act then .x else .zero
    let smpH := if 10 ≤ h then P.smpHouse.toList.getD (h - 10) [] else []
    let smpU := if 1 ≤ u ∧ u ≤ 8 then P.smpUnit.toList.getD (u - 1) [] else []
    let hleH := if 10 ≤ h then P.hleHouse.toList.getD (h - 10) [] else []
    let hleU := if 1 ≤ u ∧ u ≤ 4 then P.hleUnit.toList.getD (u - 1) [] else []
    (encodeSimple P ident act).seq = (smpH ++ smpU ++ P.smpPad ++ [onOff]).flatMap bits ++ P.triStop ∧
    (encodeSimple P ident act).width = .smp ∧
    (encodeHellE P ident act).seq = (hleH ++ hleU ++ P.hlePad ++ [onOff]).flatMap bits ++ P.triStop ∧
    (encodeHellE P ident act).width = .hle

/-- The length that the spec infers in its R87 from R70, R79, R82 and K4, K6: a tri-state sequence in a legal parameter
set. -/
def Obligations.TriStateSequenceLength : Prop :=
  ∀ (P : Params) (ident : Word) (act : Bool), P.legal = true →
    let h := ident.toNat / 16 % 16
    let u := ident.toNat % 16
    let smpH := if 10 ≤ h then 4 else 0
    let smpU := if 1 ≤ u ∧ u ≤ 8 then 4 else 0
    let hleH := if 10 ≤ h then P.hleHouse[0].length else 0
    let hleU := if 1 ≤ u ∧ u ≤ 4 then P.hleUnit[0].length else 0
    (encodeSimple P ident act).seq.length =
      P.tri0.length * (smpH + smpU + P.smpPad.length + 1) + P.triStop.length ∧
    (encodeHellE P ident act).seq.length =
      P.tri0.length * (hleH + hleU + P.hlePad.length + 1) + P.triStop.length

/-- What the spec infers in its R86 from R74, R79, R82 and K4, K8: on and off give sequences of one length that differ
only in the expansion of the activation digit. -/
def Obligations.ActivationChangesOneBitGroup : Prop :=
  (∀ (P : Params) (ident : Word) (unit : BitVec 4),
    DifferOnlyIn 227 8 (encodeLearning P ident unit true).seq (encodeLearning P ident unit false).seq) ∧
  (∀ (P : Params) (ident : Word), P.legal = true →
    DifferOnlyIn (P.tri0.length * ((smpHouseDigits P (house ident)).length +
        (smpUnitDigits P (unitNibble ident)).length + P.smpPad.length)) P.tri0.length
      (encodeSimple P ident true).seq (encodeSimple P ident false).seq ∧
    DifferOnlyIn (P.tri0.length * ((hleHouseDigits P (house ident)).length +
        (hleUnitDigits P (unitNibble ident)).length + P.hlePad.length)) P.tri0.length
      (encodeHellE P ident true).seq (encodeHellE P ident false).seq)

/-- Every encoded sequence of a legal parameter set is non-empty (R71), ends in a 0 bit (R102, K5) and fits the
sequence buffer and LEN (K7); only the reserved variant has none. -/
def Obligations.EncodedSequencesEndLowAndFit : Prop :=
  ∀ (P : Params) (i : Instr), P.legal = true →
    (∀ e, encodeCommand P i = some e →
      e.seq ≠ [] ∧ e.seq.getLast? = some false ∧ e.seq.length ≤ P.pSeqMax ∧ e.seq.length < 65536) ∧
    (encodeCommand P i = none ↔ mnemonic i = "(reserved)")

/-- R84: the out-of-table flag says exactly that a table-addressed field has no entry, and such a command is still
encoded, without that field's digits, and transmitted, with STATUS.OOR reporting it. -/
def Obligations.OutOfTableCommandsAreStillSent : Prop :=
  (∀ (P : Params) (ident : Word) (unit : BitVec 4) (act : Bool),
    let h := ident.toNat / 16 % 16
    let u := ident.toNat % 16
    ((encodeLearning P ident unit act).oor = true ↔ unit.toNat < 1 ∨ 4 < unit.toNat) ∧
    ((encodeLearning P ident unit act).oor = true → lrnUnitDigits unit = []) ∧
    ((encodeSimple P ident act).oor = true ↔ h < 10 ∨ u < 1 ∨ 8 < u) ∧
    (h < 10 → smpHouseDigits P (house ident) = []) ∧
    (u < 1 ∨ 8 < u → smpUnitDigits P (unitNibble ident) = []) ∧
    ((encodeHellE P ident act).oor = true ↔ h < 10 ∨ u < 1 ∨ 4 < u) ∧
    (h < 10 → hleHouseDigits P (house ident) = []) ∧
    (u < 1 ∨ 4 < u → hleUnitDigits P (unitNibble ident) = [])) ∧
  (∀ (i : Instr) (e : Encoded) (s : State), encodeCommand Config.params i = some e → s.phase = .idle →
    repsOf i ≠ 0 → ∃ t, exec i s = .next t ∧ t.phase = .bit ∧ t.seq = e.seq ∧ t.oor = e.oor)

/-! ### START -/

/-- `TX.LRN` on an idle block with at least one repetition (R90, R91): the sequence is captured, the first slot starts
at this instant with level 1, and every other field is as it was. -/
def Obligations.TxLrnStartsItsTransmission : Prop :=
  ∀ (ident : Word) (unit : BitVec 4) (act : Bool) (reps : BitVec 8) (s : State),
    s.phase = .idle → reps ≠ 0 →
    exec (.txLrn ident unit act reps) s = .next { s with
      seq := (encodeLearning Config.params ident unit act).seq
      len := if 1 ≤ unit.toNat ∧ unit.toNat ≤ 4 then 310 else 294
      capW := .lrn
      capReps := reps
      oor := decide (unit.toNat < 1 ∨ 4 < unit.toNat)
      done := false
      rep := 0
      replay := 0
      bit := 0
      phase := .bit
      deadline := s.now + 250
      pin := true
      events := s.events ++ [⟨s.now, true, 0, 0, 0⟩] }

/-- `TX.SMP` on an idle block with at least one repetition (R90, R92): as `TX.LRN`, with the Simple sequence, its first
bit on the pin, and 350 microseconds a slot. -/
def Obligations.TxSmpStartsItsTransmission : Prop :=
  ∀ (ident : Word) (unit : BitVec 4) (act : Bool) (reps : BitVec 8) (s : State),
    s.phase = .idle → reps ≠ 0 →
    ∃ (b : Bool) (l : BitVec 16),
      (encodeSimple Config.params ident act).seq.head? = some b ∧
      l.toNat = (encodeSimple Config.params ident act).seq.length ∧
      exec (.txSmp ident unit act reps) s = .next { s with
        seq := (encodeSimple Config.params ident act).seq
        len := l
        capW := .smp
        capReps := reps
        oor := decide (ident.toNat / 16 % 16 < 10 ∨ ident.toNat % 16 < 1 ∨ 8 < ident.toNat % 16)
        done := false
        rep := 0
        replay := 0
        bit := 0
        phase := .bit
        deadline := s.now + 350
        pin := b
        events := s.events ++ [⟨s.now, b, 0, 0, 0⟩] }

/-- `TX.HLE` on an idle block with at least one repetition (R90, R93): as `TX.SMP`, with the HellE sequence and 420
microseconds a slot. -/
def Obligations.TxHleStartsItsTransmission : Prop :=
  ∀ (ident : Word) (unit : BitVec 4) (act : Bool) (reps : BitVec 8) (s : State),
    s.phase = .idle → reps ≠ 0 →
    ∃ (b : Bool) (l : BitVec 16),
      (encodeHellE Config.params ident act).seq.head? = some b ∧
      l.toNat = (encodeHellE Config.params ident act).seq.length ∧
      exec (.txHle ident unit act reps) s = .next { s with
        seq := (encodeHellE Config.params ident act).seq
        len := l
        capW := .hle
        capReps := reps
        oor := decide (ident.toNat / 16 % 16 < 10 ∨ ident.toNat % 16 < 1 ∨ 4 < ident.toNat % 16)
        done := false
        rep := 0
        replay := 0
        bit := 0
        phase := .bit
        deadline := s.now + 420
        pin := b
        events := s.events ++ [⟨s.now, b, 0, 0, 0⟩] }

/-- R94: START of the reserved variant on an idle block sets ERR_VARIANT and does nothing else. -/
def Obligations.ReservedVariantIsRefused : Prop :=
  ∀ (ident : Word) (unit : BitVec 4) (act : Bool) (reps : BitVec 8) (s : State), s.phase = .idle →
    exec (.reserved ident unit act reps) s = .next { s with errVariant := true }

/-- R95: an accepted START with REPS = 0 encodes and captures, sets DONE in the same step, never sets BUSY and starts
no slot. -/
def Obligations.ZeroRepetitionsSendNothing : Prop :=
  ∀ (i : Instr) (e : Encoded) (s : State), encodeCommand Config.params i = some e → repsOf i = 0 →
    s.phase = .idle →
    ∃ l : BitVec 16, l.toNat = e.seq.length ∧
      exec i s = .next { s with
        seq := e.seq
        len := l
        capW := e.width
        capReps := 0
        oor := e.oor
        done := true }

/-- START of any command while BUSY sets ERR_BUSY and does nothing else; the busy check comes before the variant check
(R90, R108, R112). -/
def Obligations.StartWhileBusyIsRefused : Prop :=
  ∀ (i : Instr) (s : State), s.phase ≠ .idle → exec i s = .next { s with errBusy := true }

/-- The frame of every command: START leaves the host's registers, NOW, the bus outputs, the fault record and the agenda
alone, ERR_BUSY unless the block is busy, ERR_VARIANT unless the command is the reserved one, and records at most one
event (R57, R90, R101). -/
def Obligations.StartLeavesEverythingElseAlone : Prop :=
  ∀ (i : Instr) (s t : State), exec i s = .next t →
    t.cmd = s.cmd ∧ t.ident = s.ident ∧ t.now = s.now ∧ t.busOut = s.busOut ∧ t.hostFaults = s.hostFaults ∧
    t.agenda = s.agenda ∧
    (s.phase = .idle → t.errBusy = s.errBusy) ∧
    (mnemonic i ≠ "(reserved)" → t.errVariant = s.errVariant) ∧
    ((t.events = s.events ∧ t.pin = s.pin ∧ t.deadline = s.deadline ∧ t.phase = s.phase ∧ t.rep = s.rep ∧
        t.replay = s.replay ∧ t.bit = s.bit) ∨
      t.events = s.events ++ [⟨s.now, t.pin, 0, 0, 0⟩])

/-! ### The step -/

/-- A cycle that presents a START runs the command that the words in CMD and IDENT decode to, in the state after that
cycle's tick; the access then answers as a legal write (R15, R57, R61). -/
def Obligations.StepRunsTheDecodedCommand : Prop :=
  ∀ (s t : State) (i : Instr), presentsStart (nextInput s) → decode ⟨wordOfCmd s.cmd, s.ident⟩ = i →
    exec i (accessState s) = .next t → step s = .next { t with busOut := some .written }

/-- The step after a table word has been brought up (the model's choice, log entries 5 and 6) runs the command that the
word decodes to, by a write of CTRL (R61). -/
def Obligations.StepRunsTheBroughtUpWord : Prop :=
  ∀ (s t : State) (nbits w : Nat) (i : Instr), decodeTableWord nbits w = some i →
    exec i { s with
      cmd := cmdOfWord (tableWords nbits w).cmd
      ident := (tableWords nbits w).ident
      busOut := none } = .next t →
    step (s.withFetchWord nbits w) = .next { t with busOut := some .written }

/-- The block stops for nothing: every step of every state answers a next state (R109, R110, R113); with nothing
presented the step is a tick without an access (the model's choice, log entry 4). -/
def Obligations.EveryStepAnswersANextState : Prop :=
  ∀ s : State, (∃ t, step s = .next t) ∧ (s.agenda = [] → step s = .next (tick { s with busOut := none }))

/-- R122: a reset cycle puts every register and every defined piece of internal state to its reset value, whatever else
the cycle presents, with no tick and no access. (The spec leaves `seq`, `capW` and `capReps` open; nothing is said of
them.) -/
def Obligations.ResetCycleSetsTheResetValues : Prop :=
  ∀ s : State, (nextInput s).rst = true → ∃ t, step s = .next t ∧
    t.cmd = ⟨0, false, 1, 4⟩ ∧ t.ident = 0 ∧ t.done = false ∧ t.errBusy = false ∧ t.errVariant = false ∧
    t.oor = false ∧ t.now = 0 ∧ t.len = 0 ∧ t.phase = .idle ∧ t.rep = 0 ∧ t.replay = 0 ∧ t.bit = 0 ∧
    t.deadline = 0 ∧ t.pin = false ∧ (∀ r, registerValue r t = if r = .cmd then 0x0410 else 0)

/-- What is no state of the block outlives a reset: the event trace, the fault record and the agenda (the model's choice,
log entry 11); the cycle answers no access (R15, R122). -/
def Obligations.ResetCycleKeepsTheRecords : Prop :=
  ∀ s : State, (nextInput s).rst = true → ∃ t, step s = .next t ∧ t.busOut = none ∧ t.events = s.events ∧
    t.hostFaults = s.hostFaults ∧ t.agenda = nextAgenda s

/-- The state after reset holds every reset value that R19 and R122 give, with nothing recorded. -/
def Obligations.ResetStateHoldsTheResetValues : Prop :=
  (∀ r, registerValue r State.reset = if r = .cmd then 0x0410 else 0) ∧ State.reset.phase = .idle ∧
    State.reset.deadline = 0 ∧ State.reset.pin = false ∧ State.reset.events = []

/-- R35: NOW goes up by 1 modulo 2^32 in a cycle with a tick, whatever the phase, is left alone by every access, and is 0
after a reset. -/
def Obligations.NowCountsTicks : Prop :=
  State.reset.now = 0 ∧
  ∀ s t : State, step s = .next t →
    ((nextInput s).rst = true → t.now = 0) ∧
    ((nextInput s).rst = false → (nextInput s).usTick = true → t.now = s.now + 1) ∧
    ((nextInput s).rst = false → (nextInput s).usTick = false → t.now = s.now)

/-- A cycle whose tick completes a transmission accepts a START of the same cycle (R100, R112). -/
def Obligations.StartInTheCycleOfCompletionIsAccepted : Prop :=
  ∀ (s : State) (e : Encoded),
    s.phase = .gap → s.now + 1 = s.deadline → ¬s.rep + 1 < s.capReps →
    (nextInput s).usTick = true → presentsStart (nextInput s) →
    encodeCommand Config.params (decode ⟨wordOfCmd s.cmd, s.ident⟩) = some e → s.cmd.reps ≠ 0 →
    ∃ t, step s = .next t ∧ t.phase = .bit ∧ t.seq = e.seq ∧ t.errBusy = s.errBusy ∧ t.done = false ∧
      t.now = s.now + 1 ∧ t.deadline = s.now + 1 + widthUs e.width ∧ t.rep = 0 ∧ t.replay = 0 ∧ t.bit = 0 ∧
      t.events = s.events ++ [⟨s.now + 1, t.pin, 0, 0, 0⟩]

/-- One turn of a `WAIT` loop (R67): a read cycle (one cycle a read is the model's choice, log entry 15); on a match the
loop is over, else one tick and the loop come next. -/
def Obligations.WaitReadsAndLoops : Prop :=
  ∀ (s : State) (r : Reg) (mask value : Word) (rest : List HostAction),
    s.agenda = .wait r.offset mask value :: rest →
    step s = .next { s with
      busOut := some (.data (readReg r s))
      agenda := if readReg r s &&& mask = value then rest
        else .cycle ⟨false, true, false, false, 0, 0⟩ :: .wait r.offset mask value :: rest }

/-! ### The register bus -/

/-- Exactly the aligned offsets 0x00 to 0x18 reach a register, each the one that the register map names (R19, R45). -/
def Obligations.LegalOffsetsReachTheirRegisters : Prop :=
  (∀ addr : BitVec 5, (regAt addr).isSome = true ↔ addr.extractLsb' 0 2 = 0 ∧ addr ≠ 0x1C) ∧
    regAt 0x00 = some .cmd ∧ regAt 0x04 = some .ident ∧ regAt 0x08 = some .ctrl ∧ regAt 0x0C = some .status ∧
    regAt 0x10 = some .now ∧ regAt 0x14 = some .len ∧ regAt 0x18 = some .pos ∧
    ∀ r : Reg, regAt r.offset = some r

/-- R46: an access that is misaligned or to offset 0x1C answers with the error response and changes no state of the
block (the fault goes on the model's record); every legal access answers without error. -/
def Obligations.IllegalAccessesAnswerWithBusError : Prop :=
  ∀ (write : Bool) (addr : BitVec 5) (v : Word) (s : State),
    (addr.extractLsb' 0 2 ≠ 0 ∨ addr = 0x1C →
      ∃ f, access write addr v s = .next { s with
        busOut := some .busError, hostFaults := s.hostFaults ++ [f] }) ∧
    (addr.extractLsb' 0 2 = 0 ∧ addr ≠ 0x1C →
      ∃ t, access write addr v s = .next t ∧ t.hostFaults = s.hostFaults ∧
        (t.busOut = some .written ∨ ∃ x, t.busOut = some (.data x)))

/-- R47: a legal read answers with the register's value, each field in its place, reserved bits and CTRL 0, and changes
nothing; any other read answers with the error response. -/
def Obligations.ReadsReturnTheRegisterAndChangeNothing : Prop :=
  (∀ (r : Reg) (v : Word) (s : State), ∃ x : Word, x.toNat = registerValue r s ∧
    access false r.offset v s = .next { s with busOut := some (.data x) }) ∧
  (∀ (addr : BitVec 5) (v : Word) (s : State), addr.extractLsb' 0 2 ≠ 0 ∨ addr = 0x1C →
    ∃ t, access false addr v s = .next t ∧ t.busOut = some .busError)

/-- What a legal write does, offset by offset (R48). -/
def Obligations.WritesActByOffset : Prop :=
  ∀ (v : Word) (s : State),
    access true 0x00 v s = .next { s with
      cmd := ⟨v.extractLsb' 0 2, v.getLsbD 2, v.extractLsb' 4 4, v.extractLsb' 8 8⟩, busOut := some .written } ∧
    access true 0x04 v s = .next { s with ident := v, busOut := some .written } ∧
    (v.getLsbD 0 = false → access true 0x08 v s = .next { s with busOut := some .written }) ∧
    (v.getLsbD 0 = true → ∀ t, exec (decode ⟨wordOfCmd s.cmd, s.ident⟩) s = .next t →
      access true 0x08 v s = .next { t with busOut := some .written }) ∧
    access true 0x0C v s = .next { s with
      done := s.done && !v.getLsbD 1
      errBusy := s.errBusy && !v.getLsbD 2
      errVariant := s.errVariant && !v.getLsbD 3
      busOut := some .written } ∧
    access true 0x10 v s = .next { s with busOut := some .written } ∧
    access true 0x14 v s = .next { s with busOut := some .written } ∧
    access true 0x18 v s = .next { s with busOut := some .written }

/-- CMD reads back what was written to it with bits 31:16 and 3 zero (R20). -/
def Obligations.CmdReadsBackWithoutReservedBits : Prop :=
  ∀ (v : Word) (s t : State), access true 0x00 v s = .next t → readReg .cmd t = v &&& 0x0000FFF7

/-- A write of STATUS clears exactly the bits 1 to 3 that are 1 in the data, and nothing else of what STATUS reads
(R27). -/
def Obligations.StatusWriteClearsWrittenOnes : Prop :=
  ∀ (v : Word) (s t : State), access true 0x0C v s = .next t →
    readReg .status t = readReg .status s &&& ~~~(v &&& 0x0000000E)

/-- The window at `P_BASE`: the address `P_BASE` + off is offset off, and no address outside the 32 bytes is in it
(R12, R52). -/
def Obligations.WindowAddressesAreOffsets : Prop :=
  ∀ P : Params, P.legal = true →
    (∀ off : BitVec 5, windowOffset P.pBase (P.pBase + off.setWidth 32) = some off) ∧
    ∀ addr : Word, addr.toNat < P.pBase.toNat ∨ P.pBase.toNat + 31 < addr.toNat → windowOffset P.pBase addr = none

/-! ### The tick and the sequencer -/

/-- R97: a tick advances NOW and runs at most one of the slot end and the gap end, when the deadline is reached. -/
def Obligations.TickRunsTheSequencerAtTheDeadline : Prop :=
  ∀ s : State,
    (s.phase = .idle ∨ s.now + 1 ≠ s.deadline → tick s = { s with now := s.now + 1 }) ∧
    (s.phase = .bit ∧ s.now + 1 = s.deadline → tick s = slotEnd { s with now := s.now + 1 }) ∧
    (s.phase = .gap ∧ s.now + 1 = s.deadline → tick s = gapEnd { s with now := s.now + 1 })

/-- R98: the end of a slot starts the next slot, or the next replay's first slot, or the gap. -/
def Obligations.SlotEndStartsTheNextSlotOrTheGap : Prop :=
  ∀ (s : State) (b : Bool),
    (s.bit + 1 < s.len → s.seq[(s.bit + 1).toNat]? = some b →
      slotEnd s = { s with
        bit := s.bit + 1
        deadline := s.deadline + widthUs s.capW
        pin := b
        events := s.events ++ [⟨s.now, b, s.rep, s.replay, s.bit + 1⟩] }) ∧
    (¬s.bit + 1 < s.len → s.replay + 1 < 5 → s.seq[0]? = some b →
      slotEnd s = { s with
        bit := 0
        replay := s.replay + 1
        deadline := s.deadline + widthUs s.capW
        pin := b
        events := s.events ++ [⟨s.now, b, s.rep, s.replay + 1, 0⟩] }) ∧
    (¬s.bit + 1 < s.len → ¬s.replay + 1 < 5 →
      slotEnd s = { s with bit := 0, replay := 0, phase := .gap, deadline := s.deadline + 35000 })

/-- R99 and R100: the end of a gap starts the next repetition, or completes the transmission with the pin as it is. (That
a gap follows every frame group is the third clause of SlotEndStartsTheNextSlotOrTheGap.) -/
def Obligations.GapEndStartsTheNextRepetitionOrCompletes : Prop :=
  ∀ (s : State) (b : Bool),
    (s.rep + 1 < s.capReps → s.seq[0]? = some b →
      gapEnd s = { s with
        rep := s.rep + 1
        phase := .bit
        deadline := s.deadline + widthUs s.capW
        pin := b
        events := s.events ++ [⟨s.now, b, s.rep + 1, s.replay, s.bit⟩] }) ∧
    (¬s.rep + 1 < s.capReps →
      gapEnd s = { s with rep := 0, replay := 0, bit := 0, phase := .idle, done := true })

/-- Outside reset the pin changes only by a slot start: a cycle records no event and leaves the pin alone, or records one
event, at its NOW, at its position, whose level is the pin's (R59, R88, R101). -/
def Obligations.PinChangesOnlyAtASlotStart : Prop :=
  ∀ s t : State, step s = .next t → (nextInput s).rst = false →
    (t.events = s.events ∧ t.pin = s.pin) ∨
    (t.events = s.events ++ [⟨t.now, t.pin, t.rep, t.replay, t.bit⟩] ∧ t.phase = .bit ∧
      t.deadline = t.now + widthUs t.capW)

/-- A register access during a transmission changes nothing that the sequencer reads or writes, nor OOR: no write reaches
a running transmission (R57, R103, R111). -/
def Obligations.AccessesCannotDisturbATransmission : Prop :=
  ∀ (write : Bool) (addr : BitVec 5) (v : Word) (s : State), s.phase ≠ .idle →
    ∃ t, access write addr v s = .next t ∧ sequencerView t = sequencerView s ∧ t.oor = s.oor ∧
      t.agenda = s.agenda

/-- A transmission ends only by a reset or by the end of its last gap (R28, R103). -/
def Obligations.TransmissionsEndOnlyAtTheLastGapOrByReset : Prop :=
  ∀ s t : State, step s = .next t → s.phase ≠ .idle → t.phase = .idle →
    (nextInput s).rst = true ∨
    ((nextInput s).usTick = true ∧ s.phase = .gap ∧ s.now + 1 = s.deadline ∧ ¬s.rep + 1 < s.capReps)

/-- A transmission begins only by a START of a command of the three variants with at least one repetition, also in a
cycle whose tick completes the one before (R2, R28, R61, R94, R95, R112). -/
def Obligations.TransmissionsBeginOnlyByStart : Prop :=
  ∀ s t : State, step s = .next t → (nextInput s).rst = false → (accessState s).phase = .idle → t.phase ≠ .idle →
    presentsStart (nextInput s) ∧ s.cmd.variant ≠ 3 ∧ s.cmd.reps ≠ 0

/-- DONE rises only when a transmission completes at its last gap's end or a START with REPS = 0 is accepted (R29). -/
def Obligations.DoneRisesOnlyAtCompletion : Prop :=
  ∀ s t : State, step s = .next t → s.done = false → t.done = true →
    ((nextInput s).usTick = true ∧ s.phase = .gap ∧ s.now + 1 = s.deadline ∧ ¬s.rep + 1 < s.capReps) ∨
    (presentsStart (nextInput s) ∧ s.cmd.variant ≠ 3 ∧ s.cmd.reps = 0 ∧ (accessState s).phase = .idle)

/-- R30: ERR_BUSY is set by a START presented while BUSY, which is refused, and by nothing else; once set, only a write of 1 to its bit or
a reset clears it. -/
def Obligations.ErrBusyIsStickyAndSetByBusyStarts : Prop :=
  ∀ s t : State, step s = .next t →
    (presentsStart (nextInput s) → (accessState s).phase ≠ .idle →
      t = { accessState s with errBusy := true, busOut := some .written }) ∧
    (s.errBusy = false → t.errBusy = true →
      presentsStart (nextInput s) ∧ (accessState s).phase ≠ .idle) ∧
    (s.errBusy = true → t.errBusy = false →
      (nextInput s).rst = true ∨ ∃ v, writesReg .status v (nextInput s) ∧ v.getLsbD 2 = true)

/-- R31: ERR_VARIANT is set by a START presented while not BUSY with VARIANT = 3, which is refused, and by nothing else;
once set, only a write of 1 to its bit or a reset clears it. -/
def Obligations.ErrVariantIsStickyAndSetByReservedStarts : Prop :=
  ∀ s t : State, step s = .next t →
    (presentsStart (nextInput s) → (accessState s).phase = .idle → s.cmd.variant = 3 →
      t = { accessState s with errVariant := true, busOut := some .written }) ∧
    (s.errVariant = false → t.errVariant = true →
      presentsStart (nextInput s) ∧ (accessState s).phase = .idle ∧ s.cmd.variant = 3) ∧
    (s.errVariant = true → t.errVariant = false →
      (nextInput s).rst = true ∨ ∃ v, writesReg .status v (nextInput s) ∧ v.getLsbD 3 = true)

/-! ### Invariants -/

/-- The state after reset meets the invariant. -/
def Obligations.ResetMeetsTheInvariant : Prop := Inv State.reset

/-- Every step of every state that meets the invariant gives a state that meets it (R39, R40, R102, R105). -/
def Obligations.EveryStepKeepsTheInvariant : Prop :=
  ∀ s t : State, Inv s → step s = .next t → Inv t

/-- What the spec infers in its R39 from R90, R97, R98, R99 and R122: what holds in every reachable state, for every
environment that the block can meet from reset on. -/
def Obligations.ReachableStatesMeetTheListedFacts : Prop :=
  ∀ (agenda : List HostAction) (k : Nat) (t : State),
    Host.Core.run Sys2Proof.core k { State.reset with agenda := agenda } = .next t → ReachableFacts t

/-- Outside a slot, in every gap and while idle, the pin is low in every reachable state: what the spec infers in its
R102 from R101, R69 and K5. -/
def Obligations.ThePinIsLowOutsideSlots : Prop :=
  ∀ (agenda : List HostAction) (k : Nat) (t : State),
    Host.Core.run Sys2Proof.core k { State.reset with agenda := agenda } = .next t → t.phase ≠ .bit →
    t.pin = false

/-! ### The whole transmission -/

/-- The closed form that the spec infers in its R106 from R90, R97, R98, R99 and R102. `m` microseconds after its START, before n · P, the block is in the slot or
the gap that the closed form names, with its level, its position and its deadline; at n · P it is idle and DONE. -/
def Obligations.TransmissionFollowsTheClosedForm : Prop :=
  ∀ (i : Instr) (e : Encoded) (s : State), encodeCommand Config.params i = some e → s.phase = .idle →
    repsOf i ≠ 0 →
    ∃ s0, exec i s = .next s0 ∧ ∀ m : Nat,
      (m < (repsOf i).toNat * periodUs e →
        (ticks m s0).now = timeAfter s.now m ∧
        (m % periodUs e < frameGroupUs e →
          InSlot e s.now (m / periodUs e) (m % periodUs e / slotUs e / e.seq.length)
            (m % periodUs e / slotUs e % e.seq.length) (ticks m s0)) ∧
        (frameGroupUs e ≤ m % periodUs e → InGap e s.now (m / periodUs e) (ticks m s0))) ∧
      (m = (repsOf i).toNat * periodUs e →
        (ticks m s0).now = timeAfter s.now m ∧ (ticks m s0).phase = .idle ∧ (ticks m s0).done = true ∧
        (ticks m s0).rep = 0 ∧ (ticks m s0).replay = 0 ∧ (ticks m s0).bit = 0 ∧ (ticks m s0).pin = false)

/-- What the spec infers in its R107: a transmission with n repetitions lasts exactly n · P microseconds and records exactly 5 · L · n slot-start
events, each at the time, level and position that the schedule gives it. -/
def Obligations.TransmissionRecordsTheScheduledEvents : Prop :=
  ∀ (i : Instr) (e : Encoded) (s : State), encodeCommand Config.params i = some e → s.phase = .idle →
    repsOf i ≠ 0 →
    ∃ s0, exec i s = .next s0 ∧
      (∀ m, m < (repsOf i).toNat * periodUs e → (ticks m s0).phase ≠ .idle) ∧
      (ticks ((repsOf i).toNat * periodUs e) s0).phase = .idle ∧
      (ticks ((repsOf i).toNat * periodUs e) s0).events =
        s.events ++ scheduledEvents e (repsOf i).toNat s.now ∧
      (scheduledEvents e (repsOf i).toNat s.now).length = 5 * e.seq.length * (repsOf i).toNat

/-- The waveform of a transmission depends only on the command and on the time of its START: two idle blocks at one time,
alike in nothing else, send the same levels at the same positions, and the events they record from the START on are the
same (R3, R57). -/
def Obligations.WaveformDependsOnlyOnCommandAndTime : Prop :=
  ∀ (i : Instr) (e : Encoded) (s s' t t' : State) (n : Nat),
    encodeCommand Config.params i = some e → repsOf i ≠ 0 → s.phase = .idle → s'.phase = .idle →
    s.now = s'.now → exec i s = .next t → exec i s' = .next t' →
    sequencerView { ticks n t with events := (ticks n t).events.drop s.events.length } =
      sequencerView { ticks n t' with events := (ticks n t').events.drop s'.events.length }

/-- Host accesses never delay, stop, change or reorder a slot: through any cycles without reset, as long as the
transmission lasts, the sequencer goes exactly as it goes with the ticks of those cycles alone (R57, R103, R111,
R135). -/
def Obligations.HostActivityNeverReachesTheSequencer : Prop :=
  ∀ (cs : List ClkInput) (s : State), (∀ c ∈ cs, c.rst = false) →
    (∀ k, k ≤ tickCount cs → (ticks k s).phase ≠ .idle) →
    ∃ t, runCycles cs s = .next t ∧ sequencerView t = sequencerView (ticks (tickCount cs) s)
end

