-- ==== Sys2Proof/Laws/Config.lean ====
section
/-! SUPPORT. What the legality of a parameter set gives, constraint by constraint (R8). -/

namespace Sys2Proof

theorem config_params_legal : Config.params.legal = true := Config.given.legal

/-- The checks of `Params.legal`, one conjunct each. -/
theorem legal_iff (P : Params) :
    P.legal = true ↔ P.baseAligned = true ∧ P.triNonEmpty = true ∧ P.k1 = true ∧ P.k2 = true ∧ P.k3 = true ∧
      P.k4 = true ∧ P.k5 = true ∧ P.k6 = true ∧ P.k7 = true ∧ P.k8 = true ∧ P.d18 = true := by
  simp [Params.legal, and_assoc]

variable {P : Params}

theorem legal_stop_ne_nil (h : P.legal = true) : P.triStop ≠ [] := by
  have := ((legal_iff P).1 h).2.1
  simp only [Params.triNonEmpty, Bool.and_eq_true, Bool.not_eq_true', List.isEmpty_eq_false_iff] at this
  exact this.2

theorem legal_stop_last (h : P.legal = true) : P.triStop.getLast? = some false := by
  simpa [Params.k5] using ((legal_iff P).1 h).2.2.2.2.2.2.1

theorem legal_tri_lengths (h : P.legal = true) : P.tri0.length = P.triX.length ∧ P.tri1.length = P.tri0.length := by
  have h4 := ((legal_iff P).1 h).2.2.2.2.2.1
  have h6 := ((legal_iff P).1 h).2.2.2.2.2.2.2.1
  simp only [Params.k4, beq_iff_eq] at h4
  simp only [Params.k6, Bool.and_eq_true, beq_iff_eq] at h6
  exact ⟨h4, h6.2⟩

theorem legal_seq_max (h : P.legal = true) :
    310 ≤ P.pSeqMax ∧ longestTri P P.smpHouse.toList P.smpUnit.toList P.smpPad ≤ P.pSeqMax ∧
      longestTri P P.hleHouse.toList P.hleUnit.toList P.hlePad ≤ P.pSeqMax ∧ P.pSeqMax ≤ 65535 := by
  simpa [Params.k7, and_assoc] using ((legal_iff P).1 h).2.2.2.2.2.2.2.2.1

theorem legal_x_ne_zero (h : P.legal = true) : P.triX ≠ P.tri0 := by
  simpa [Params.k8] using ((legal_iff P).1 h).2.2.2.2.2.2.2.2.2.1

theorem legal_house_A (h : P.legal = true) : P.smpHouse[0] = [.zero, .zero, .zero, .zero] := by
  simpa [Params.k2] using ((legal_iff P).1 h).2.2.2.1

/-- An entry of a table is no longer than the longest one. -/
theorem length_le_longestEntry {e : List Digit} {table : List (List Digit)} (h : e ∈ table) :
    e.length ≤ longestEntry table := by
  induction table with
  | nil => cases h
  | cons a rest ih =>
    rcases List.mem_cons.1 h with rfl | h
    · simp [longestEntry]
    · exact le_trans (ih h) (by simp [longestEntry])

end Sys2Proof
end

