-- ==== Sys2Proof/Laws/State.lean ====
section
/-! SUPPORT. One lemma per field of State for each operation that updates it. -/

namespace Sys2Proof.Machine

variable (s : State)

@[simp] theorem raiseErrBusy_cmd : (raiseErrBusy s).cmd = s.cmd := rfl
@[simp] theorem raiseErrBusy_ident : (raiseErrBusy s).ident = s.ident := rfl
@[simp] theorem raiseErrBusy_done : (raiseErrBusy s).done = s.done := rfl
@[simp] theorem raiseErrBusy_errBusy : (raiseErrBusy s).errBusy = true := rfl
@[simp] theorem raiseErrBusy_errVariant : (raiseErrBusy s).errVariant = s.errVariant := rfl
@[simp] theorem raiseErrBusy_oor : (raiseErrBusy s).oor = s.oor := rfl
@[simp] theorem raiseErrBusy_now : (raiseErrBusy s).now = s.now := rfl
@[simp] theorem raiseErrBusy_len : (raiseErrBusy s).len = s.len := rfl
@[simp] theorem raiseErrBusy_phase : (raiseErrBusy s).phase = s.phase := rfl
@[simp] theorem raiseErrBusy_seq : (raiseErrBusy s).seq = s.seq := rfl
@[simp] theorem raiseErrBusy_capW : (raiseErrBusy s).capW = s.capW := rfl
@[simp] theorem raiseErrBusy_capReps : (raiseErrBusy s).capReps = s.capReps := rfl
@[simp] theorem raiseErrBusy_rep : (raiseErrBusy s).rep = s.rep := rfl
@[simp] theorem raiseErrBusy_replay : (raiseErrBusy s).replay = s.replay := rfl
@[simp] theorem raiseErrBusy_bit : (raiseErrBusy s).bit = s.bit := rfl
@[simp] theorem raiseErrBusy_deadline : (raiseErrBusy s).deadline = s.deadline := rfl
@[simp] theorem raiseErrBusy_pin : (raiseErrBusy s).pin = s.pin := rfl
@[simp] theorem raiseErrBusy_busOut : (raiseErrBusy s).busOut = s.busOut := rfl
@[simp] theorem raiseErrBusy_events : (raiseErrBusy s).events = s.events := rfl
@[simp] theorem raiseErrBusy_hostFaults : (raiseErrBusy s).hostFaults = s.hostFaults := rfl
@[simp] theorem raiseErrBusy_agenda : (raiseErrBusy s).agenda = s.agenda := rfl

@[simp] theorem raiseErrVariant_cmd : (raiseErrVariant s).cmd = s.cmd := rfl
@[simp] theorem raiseErrVariant_ident : (raiseErrVariant s).ident = s.ident := rfl
@[simp] theorem raiseErrVariant_done : (raiseErrVariant s).done = s.done := rfl
@[simp] theorem raiseErrVariant_errBusy : (raiseErrVariant s).errBusy = s.errBusy := rfl
@[simp] theorem raiseErrVariant_errVariant : (raiseErrVariant s).errVariant = true := rfl
@[simp] theorem raiseErrVariant_oor : (raiseErrVariant s).oor = s.oor := rfl
@[simp] theorem raiseErrVariant_now : (raiseErrVariant s).now = s.now := rfl
@[simp] theorem raiseErrVariant_len : (raiseErrVariant s).len = s.len := rfl
@[simp] theorem raiseErrVariant_phase : (raiseErrVariant s).phase = s.phase := rfl
@[simp] theorem raiseErrVariant_seq : (raiseErrVariant s).seq = s.seq := rfl
@[simp] theorem raiseErrVariant_capW : (raiseErrVariant s).capW = s.capW := rfl
@[simp] theorem raiseErrVariant_capReps : (raiseErrVariant s).capReps = s.capReps := rfl
@[simp] theorem raiseErrVariant_rep : (raiseErrVariant s).rep = s.rep := rfl
@[simp] theorem raiseErrVariant_replay : (raiseErrVariant s).replay = s.replay := rfl
@[simp] theorem raiseErrVariant_bit : (raiseErrVariant s).bit = s.bit := rfl
@[simp] theorem raiseErrVariant_deadline : (raiseErrVariant s).deadline = s.deadline := rfl
@[simp] theorem raiseErrVariant_pin : (raiseErrVariant s).pin = s.pin := rfl
@[simp] theorem raiseErrVariant_busOut : (raiseErrVariant s).busOut = s.busOut := rfl
@[simp] theorem raiseErrVariant_events : (raiseErrVariant s).events = s.events := rfl
@[simp] theorem raiseErrVariant_hostFaults : (raiseErrVariant s).hostFaults = s.hostFaults := rfl
@[simp] theorem raiseErrVariant_agenda : (raiseErrVariant s).agenda = s.agenda := rfl

@[simp] theorem raiseBusError_cmd (w : Bool) (a : BitVec 5) : (raiseBusError w a s).cmd = s.cmd := rfl
@[simp] theorem raiseBusError_ident (w : Bool) (a : BitVec 5) : (raiseBusError w a s).ident = s.ident := rfl
@[simp] theorem raiseBusError_done (w : Bool) (a : BitVec 5) : (raiseBusError w a s).done = s.done := rfl
@[simp] theorem raiseBusError_errBusy (w : Bool) (a : BitVec 5) : (raiseBusError w a s).errBusy = s.errBusy := rfl
@[simp] theorem raiseBusError_errVariant (w : Bool) (a : BitVec 5) :
    (raiseBusError w a s).errVariant = s.errVariant := rfl
@[simp] theorem raiseBusError_oor (w : Bool) (a : BitVec 5) : (raiseBusError w a s).oor = s.oor := rfl
@[simp] theorem raiseBusError_now (w : Bool) (a : BitVec 5) : (raiseBusError w a s).now = s.now := rfl
@[simp] theorem raiseBusError_len (w : Bool) (a : BitVec 5) : (raiseBusError w a s).len = s.len := rfl
@[simp] theorem raiseBusError_phase (w : Bool) (a : BitVec 5) : (raiseBusError w a s).phase = s.phase := rfl
@[simp] theorem raiseBusError_seq (w : Bool) (a : BitVec 5) : (raiseBusError w a s).seq = s.seq := rfl
@[simp] theorem raiseBusError_capW (w : Bool) (a : BitVec 5) : (raiseBusError w a s).capW = s.capW := rfl
@[simp] theorem raiseBusError_capReps (w : Bool) (a : BitVec 5) : (raiseBusError w a s).capReps = s.capReps := rfl
@[simp] theorem raiseBusError_rep (w : Bool) (a : BitVec 5) : (raiseBusError w a s).rep = s.rep := rfl
@[simp] theorem raiseBusError_replay (w : Bool) (a : BitVec 5) : (raiseBusError w a s).replay = s.replay := rfl
@[simp] theorem raiseBusError_bit (w : Bool) (a : BitVec 5) : (raiseBusError w a s).bit = s.bit := rfl
@[simp] theorem raiseBusError_deadline (w : Bool) (a : BitVec 5) : (raiseBusError w a s).deadline = s.deadline := rfl
@[simp] theorem raiseBusError_pin (w : Bool) (a : BitVec 5) : (raiseBusError w a s).pin = s.pin := rfl
@[simp] theorem raiseBusError_busOut (w : Bool) (a : BitVec 5) : (raiseBusError w a s).busOut = some .busError := rfl
@[simp] theorem raiseBusError_events (w : Bool) (a : BitVec 5) : (raiseBusError w a s).events = s.events := rfl
@[simp] theorem raiseBusError_hostFaults (w : Bool) (a : BitVec 5) :
    (raiseBusError w a s).hostFaults = s.hostFaults ++ [⟨s.now, w, a⟩] := rfl
@[simp] theorem raiseBusError_agenda (w : Bool) (a : BitVec 5) : (raiseBusError w a s).agenda = s.agenda := rfl

@[simp] theorem emit_cmd (b : Bool) : (emit b s).cmd = s.cmd := rfl
@[simp] theorem emit_ident (b : Bool) : (emit b s).ident = s.ident := rfl
@[simp] theorem emit_done (b : Bool) : (emit b s).done = s.done := rfl
@[simp] theorem emit_errBusy (b : Bool) : (emit b s).errBusy = s.errBusy := rfl
@[simp] theorem emit_errVariant (b : Bool) : (emit b s).errVariant = s.errVariant := rfl
@[simp] theorem emit_oor (b : Bool) : (emit b s).oor = s.oor := rfl
@[simp] theorem emit_now (b : Bool) : (emit b s).now = s.now := rfl
@[simp] theorem emit_len (b : Bool) : (emit b s).len = s.len := rfl
@[simp] theorem emit_phase (b : Bool) : (emit b s).phase = s.phase := rfl
@[simp] theorem emit_seq (b : Bool) : (emit b s).seq = s.seq := rfl
@[simp] theorem emit_capW (b : Bool) : (emit b s).capW = s.capW := rfl
@[simp] theorem emit_capReps (b : Bool) : (emit b s).capReps = s.capReps := rfl
@[simp] theorem emit_rep (b : Bool) : (emit b s).rep = s.rep := rfl
@[simp] theorem emit_replay (b : Bool) : (emit b s).replay = s.replay := rfl
@[simp] theorem emit_bit (b : Bool) : (emit b s).bit = s.bit := rfl
@[simp] theorem emit_deadline (b : Bool) : (emit b s).deadline = s.deadline + widthUs s.capW := rfl
@[simp] theorem emit_pin (b : Bool) : (emit b s).pin = b := rfl
@[simp] theorem emit_busOut (b : Bool) : (emit b s).busOut = s.busOut := rfl
@[simp] theorem emit_events (b : Bool) : (emit b s).events = s.events ++ [⟨s.now, b, s.rep, s.replay, s.bit⟩] := rfl
@[simp] theorem emit_hostFaults (b : Bool) : (emit b s).hostFaults = s.hostFaults := rfl
@[simp] theorem emit_agenda (b : Bool) : (emit b s).agenda = s.agenda := rfl

@[simp] theorem capture_cmd (e : Encoded) (n : BitVec 8) : (capture e n s).cmd = s.cmd := rfl
@[simp] theorem capture_ident (e : Encoded) (n : BitVec 8) : (capture e n s).ident = s.ident := rfl
@[simp] theorem capture_done (e : Encoded) (n : BitVec 8) : (capture e n s).done = false := rfl
@[simp] theorem capture_errBusy (e : Encoded) (n : BitVec 8) : (capture e n s).errBusy = s.errBusy := rfl
@[simp] theorem capture_errVariant (e : Encoded) (n : BitVec 8) : (capture e n s).errVariant = s.errVariant := rfl
@[simp] theorem capture_oor (e : Encoded) (n : BitVec 8) : (capture e n s).oor = e.oor := rfl
@[simp] theorem capture_now (e : Encoded) (n : BitVec 8) : (capture e n s).now = s.now := rfl
@[simp] theorem capture_len (e : Encoded) (n : BitVec 8) : (capture e n s).len = BitVec.ofNat 16 e.seq.length := rfl
@[simp] theorem capture_phase (e : Encoded) (n : BitVec 8) : (capture e n s).phase = s.phase := rfl
@[simp] theorem capture_seq (e : Encoded) (n : BitVec 8) : (capture e n s).seq = e.seq := rfl
@[simp] theorem capture_capW (e : Encoded) (n : BitVec 8) : (capture e n s).capW = e.width := rfl
@[simp] theorem capture_capReps (e : Encoded) (n : BitVec 8) : (capture e n s).capReps = n := rfl
@[simp] theorem capture_rep (e : Encoded) (n : BitVec 8) : (capture e n s).rep = s.rep := rfl
@[simp] theorem capture_replay (e : Encoded) (n : BitVec 8) : (capture e n s).replay = s.replay := rfl
@[simp] theorem capture_bit (e : Encoded) (n : BitVec 8) : (capture e n s).bit = s.bit := rfl
@[simp] theorem capture_deadline (e : Encoded) (n : BitVec 8) : (capture e n s).deadline = s.deadline := rfl
@[simp] theorem capture_pin (e : Encoded) (n : BitVec 8) : (capture e n s).pin = s.pin := rfl
@[simp] theorem capture_busOut (e : Encoded) (n : BitVec 8) : (capture e n s).busOut = s.busOut := rfl
@[simp] theorem capture_events (e : Encoded) (n : BitVec 8) : (capture e n s).events = s.events := rfl
@[simp] theorem capture_hostFaults (e : Encoded) (n : BitVec 8) : (capture e n s).hostFaults = s.hostFaults := rfl
@[simp] theorem capture_agenda (e : Encoded) (n : BitVec 8) : (capture e n s).agenda = s.agenda := rfl

@[simp] theorem complete_cmd : (complete s).cmd = s.cmd := rfl
@[simp] theorem complete_ident : (complete s).ident = s.ident := rfl
@[simp] theorem complete_done : (complete s).done = true := rfl
@[simp] theorem complete_errBusy : (complete s).errBusy = s.errBusy := rfl
@[simp] theorem complete_errVariant : (complete s).errVariant = s.errVariant := rfl
@[simp] theorem complete_oor : (complete s).oor = s.oor := rfl
@[simp] theorem complete_now : (complete s).now = s.now := rfl
@[simp] theorem complete_len : (complete s).len = s.len := rfl
@[simp] theorem complete_phase : (complete s).phase = .idle := rfl
@[simp] theorem complete_seq : (complete s).seq = s.seq := rfl
@[simp] theorem complete_capW : (complete s).capW = s.capW := rfl
@[simp] theorem complete_capReps : (complete s).capReps = s.capReps := rfl
@[simp] theorem complete_rep : (complete s).rep = 0 := rfl
@[simp] theorem complete_replay : (complete s).replay = 0 := rfl
@[simp] theorem complete_bit : (complete s).bit = 0 := rfl
@[simp] theorem complete_deadline : (complete s).deadline = s.deadline := rfl
@[simp] theorem complete_pin : (complete s).pin = s.pin := rfl
@[simp] theorem complete_busOut : (complete s).busOut = s.busOut := rfl
@[simp] theorem complete_events : (complete s).events = s.events := rfl
@[simp] theorem complete_hostFaults : (complete s).hostFaults = s.hostFaults := rfl
@[simp] theorem complete_agenda : (complete s).agenda = s.agenda := rfl

@[simp] theorem clearStatus_cmd (v : Word) : (clearStatus v s).cmd = s.cmd := rfl
@[simp] theorem clearStatus_ident (v : Word) : (clearStatus v s).ident = s.ident := rfl
@[simp] theorem clearStatus_done (v : Word) : (clearStatus v s).done = if v.getLsbD 1 then false else s.done := rfl
@[simp] theorem clearStatus_errBusy (v : Word) :
    (clearStatus v s).errBusy = if v.getLsbD 2 then false else s.errBusy := rfl
@[simp] theorem clearStatus_errVariant (v : Word) :
    (clearStatus v s).errVariant = if v.getLsbD 3 then false else s.errVariant := rfl
@[simp] theorem clearStatus_oor (v : Word) : (clearStatus v s).oor = s.oor := rfl
@[simp] theorem clearStatus_now (v : Word) : (clearStatus v s).now = s.now := rfl
@[simp] theorem clearStatus_len (v : Word) : (clearStatus v s).len = s.len := rfl
@[simp] theorem clearStatus_phase (v : Word) : (clearStatus v s).phase = s.phase := rfl
@[simp] theorem clearStatus_seq (v : Word) : (clearStatus v s).seq = s.seq := rfl
@[simp] theorem clearStatus_capW (v : Word) : (clearStatus v s).capW = s.capW := rfl
@[simp] theorem clearStatus_capReps (v : Word) : (clearStatus v s).capReps = s.capReps := rfl
@[simp] theorem clearStatus_rep (v : Word) : (clearStatus v s).rep = s.rep := rfl
@[simp] theorem clearStatus_replay (v : Word) : (clearStatus v s).replay = s.replay := rfl
@[simp] theorem clearStatus_bit (v : Word) : (clearStatus v s).bit = s.bit := rfl
@[simp] theorem clearStatus_deadline (v : Word) : (clearStatus v s).deadline = s.deadline := rfl
@[simp] theorem clearStatus_pin (v : Word) : (clearStatus v s).pin = s.pin := rfl
@[simp] theorem clearStatus_busOut (v : Word) : (clearStatus v s).busOut = s.busOut := rfl
@[simp] theorem clearStatus_events (v : Word) : (clearStatus v s).events = s.events := rfl
@[simp] theorem clearStatus_hostFaults (v : Word) : (clearStatus v s).hostFaults = s.hostFaults := rfl
@[simp] theorem clearStatus_agenda (v : Word) : (clearStatus v s).agenda = s.agenda := rfl

@[simp] theorem resetStep_cmd : (resetStep s).cmd = ⟨0, false, 1, 4⟩ := rfl
@[simp] theorem resetStep_ident : (resetStep s).ident = 0 := rfl
@[simp] theorem resetStep_done : (resetStep s).done = false := rfl
@[simp] theorem resetStep_errBusy : (resetStep s).errBusy = false := rfl
@[simp] theorem resetStep_errVariant : (resetStep s).errVariant = false := rfl
@[simp] theorem resetStep_oor : (resetStep s).oor = false := rfl
@[simp] theorem resetStep_now : (resetStep s).now = 0 := rfl
@[simp] theorem resetStep_len : (resetStep s).len = 0 := rfl
@[simp] theorem resetStep_phase : (resetStep s).phase = .idle := rfl
@[simp] theorem resetStep_seq : (resetStep s).seq = [] := rfl
@[simp] theorem resetStep_capW : (resetStep s).capW = .lrn := rfl
@[simp] theorem resetStep_capReps : (resetStep s).capReps = 0 := rfl
@[simp] theorem resetStep_rep : (resetStep s).rep = 0 := rfl
@[simp] theorem resetStep_replay : (resetStep s).replay = 0 := rfl
@[simp] theorem resetStep_bit : (resetStep s).bit = 0 := rfl
@[simp] theorem resetStep_deadline : (resetStep s).deadline = 0 := rfl
@[simp] theorem resetStep_pin : (resetStep s).pin = false := rfl
@[simp] theorem resetStep_busOut : (resetStep s).busOut = none := rfl
@[simp] theorem resetStep_events : (resetStep s).events = s.events := rfl
@[simp] theorem resetStep_hostFaults : (resetStep s).hostFaults = s.hostFaults := rfl
@[simp] theorem resetStep_agenda : (resetStep s).agenda = s.agenda := rfl

@[simp] theorem beginTransmission_cmd : (beginTransmission s).cmd = s.cmd := rfl
@[simp] theorem beginTransmission_ident : (beginTransmission s).ident = s.ident := rfl
@[simp] theorem beginTransmission_done : (beginTransmission s).done = s.done := rfl
@[simp] theorem beginTransmission_errBusy : (beginTransmission s).errBusy = s.errBusy := rfl
@[simp] theorem beginTransmission_errVariant : (beginTransmission s).errVariant = s.errVariant := rfl
@[simp] theorem beginTransmission_oor : (beginTransmission s).oor = s.oor := rfl
@[simp] theorem beginTransmission_now : (beginTransmission s).now = s.now := rfl
@[simp] theorem beginTransmission_len : (beginTransmission s).len = s.len := rfl
@[simp] theorem beginTransmission_phase : (beginTransmission s).phase = .bit := rfl
@[simp] theorem beginTransmission_seq : (beginTransmission s).seq = s.seq := rfl
@[simp] theorem beginTransmission_capW : (beginTransmission s).capW = s.capW := rfl
@[simp] theorem beginTransmission_capReps : (beginTransmission s).capReps = s.capReps := rfl
@[simp] theorem beginTransmission_rep : (beginTransmission s).rep = 0 := rfl
@[simp] theorem beginTransmission_replay : (beginTransmission s).replay = 0 := rfl
@[simp] theorem beginTransmission_bit : (beginTransmission s).bit = 0 := rfl
@[simp] theorem beginTransmission_deadline : (beginTransmission s).deadline = s.now + widthUs s.capW := rfl
@[simp] theorem beginTransmission_pin : (beginTransmission s).pin = seqBit s 0 := rfl
@[simp] theorem beginTransmission_busOut : (beginTransmission s).busOut = s.busOut := rfl
@[simp] theorem beginTransmission_events :
    (beginTransmission s).events = s.events ++ [⟨s.now, seqBit s 0, 0, 0, 0⟩] := rfl
@[simp] theorem beginTransmission_hostFaults : (beginTransmission s).hostFaults = s.hostFaults := rfl
@[simp] theorem beginTransmission_agenda : (beginTransmission s).agenda = s.agenda := rfl

@[simp] theorem bringUp_cmd (w : CommandWords) : (bringUp w s).cmd = cmdOfWord w.cmd := rfl
@[simp] theorem bringUp_ident (w : CommandWords) : (bringUp w s).ident = w.ident := rfl
@[simp] theorem bringUp_done (w : CommandWords) : (bringUp w s).done = s.done := rfl
@[simp] theorem bringUp_errBusy (w : CommandWords) : (bringUp w s).errBusy = s.errBusy := rfl
@[simp] theorem bringUp_errVariant (w : CommandWords) : (bringUp w s).errVariant = s.errVariant := rfl
@[simp] theorem bringUp_oor (w : CommandWords) : (bringUp w s).oor = s.oor := rfl
@[simp] theorem bringUp_now (w : CommandWords) : (bringUp w s).now = s.now := rfl
@[simp] theorem bringUp_len (w : CommandWords) : (bringUp w s).len = s.len := rfl
@[simp] theorem bringUp_phase (w : CommandWords) : (bringUp w s).phase = s.phase := rfl
@[simp] theorem bringUp_seq (w : CommandWords) : (bringUp w s).seq = s.seq := rfl
@[simp] theorem bringUp_capW (w : CommandWords) : (bringUp w s).capW = s.capW := rfl
@[simp] theorem bringUp_capReps (w : CommandWords) : (bringUp w s).capReps = s.capReps := rfl
@[simp] theorem bringUp_rep (w : CommandWords) : (bringUp w s).rep = s.rep := rfl
@[simp] theorem bringUp_replay (w : CommandWords) : (bringUp w s).replay = s.replay := rfl
@[simp] theorem bringUp_bit (w : CommandWords) : (bringUp w s).bit = s.bit := rfl
@[simp] theorem bringUp_deadline (w : CommandWords) : (bringUp w s).deadline = s.deadline := rfl
@[simp] theorem bringUp_pin (w : CommandWords) : (bringUp w s).pin = s.pin := rfl
@[simp] theorem bringUp_busOut (w : CommandWords) : (bringUp w s).busOut = s.busOut := rfl
@[simp] theorem bringUp_events (w : CommandWords) : (bringUp w s).events = s.events := rfl
@[simp] theorem bringUp_hostFaults (w : CommandWords) : (bringUp w s).hostFaults = s.hostFaults := rfl
@[simp] theorem bringUp_agenda (w : CommandWords) :
    (bringUp w s).agenda = .cycle (writeCycle Reg.ctrl.offset 1) :: s.agenda := rfl

/-- A step is the next cycle, with the agenda moved on. -/
theorem step_eq : step s = clkCycle (nextInput s) { s with agenda := nextAgenda s } := rfl

end Sys2Proof.Machine
end

