-- ==== Sys2Proof/Laws/Ops.lean ====
section
/-! SUPPORT. For each shared operation, one lemma that says once everything it can do. -/

namespace Sys2Proof.Machine

variable {s t : State} {i : Instr} {c : ClkInput}

theorem busy_iff : s.busy = true ↔ s.phase ≠ .idle := by simp [State.busy]

theorem not_busy_iff : s.busy = false ↔ s.phase = .idle := by simp [State.busy]

/-- START after its checks: without repetitions it only captures, else the first slot starts (R90, R95). -/
theorem acceptStart_cases (e : Encoded) (n : BitVec 8) (s : State) :
    (n = 0 ∧ acceptStart e n s = { capture e n s with done := true }) ∨
    (n ≠ 0 ∧ acceptStart e n s = beginTransmission (capture e n s)) := by
  by_cases h : n = 0
  · exact .inl ⟨h, if_pos h⟩
  · exact .inr ⟨h, if_neg h⟩

/-- What START can do with any command (R90): refuse while busy, refuse the reserved variant, or accept what the
encoder gives. -/
theorem exec_next (h : exec i s = .next t) :
    (s.phase ≠ .idle ∧ t = raiseErrBusy s) ∨
    (s.phase = .idle ∧ encodeCommand Config.params i = none ∧ t = raiseErrVariant s) ∨
    (s.phase = .idle ∧ ∃ e, encodeCommand Config.params i = some e ∧ t = acceptStart e (repsOf i) s) := by
  have key : ∀ e n, Host.Outcome.next (φ := Fault) (ρ := Refusal) (start e n s) = .next t →
      (s.phase ≠ .idle ∧ t = raiseErrBusy s) ∨ (s.phase = .idle ∧ t = acceptStart e n s) := by
    intro e n h
    injection h with h
    by_cases hb : s.busy = true
    · exact .inl ⟨busy_iff.1 hb, by simp [← h, start, hb]⟩
    · have hb : s.busy = false := by simpa using hb
      exact .inr ⟨not_busy_iff.1 hb, by simp [← h, start, hb]⟩
  cases i with
  | txLrn ident unit act n => exact (key _ _ h).imp id fun h => .inr ⟨h.1, _, rfl, h.2⟩
  | txSmp ident unit act n => exact (key _ _ h).imp id fun h => .inr ⟨h.1, _, rfl, h.2⟩
  | txHle ident unit act n => exact (key _ _ h).imp id fun h => .inr ⟨h.1, _, rfl, h.2⟩
  | reserved ident unit act n =>
    injection h with h
    by_cases hb : s.busy = true
    · exact .inl ⟨busy_iff.1 hb, by simp [← h, startReserved, hb]⟩
    · have hb : s.busy = false := by simpa using hb
      exact .inr (.inl ⟨not_busy_iff.1 hb, rfl, by simp [← h, startReserved, hb]⟩)

/-- What the end of a slot can do (R98). -/
theorem slotEnd_cases (s : State) :
    (s.bit + 1 < s.len ∧
      slotEnd s = emit (seqBit s (s.bit + 1).toNat) { s with bit := s.bit + 1 }) ∨
    (¬s.bit + 1 < s.len ∧ s.replay + 1 < 5 ∧
      slotEnd s = emit (seqBit s 0) { s with bit := 0, replay := s.replay + 1 }) ∨
    (¬s.bit + 1 < s.len ∧ ¬s.replay + 1 < 5 ∧
      slotEnd s = { s with bit := 0, replay := 0, phase := .gap, deadline := s.deadline + 35000 }) := by
  by_cases h : s.bit + 1 < s.len
  · exact .inl ⟨h, if_pos h⟩
  · by_cases h' : s.replay + 1 < 5
    · exact .inr (.inl ⟨h, h', (if_neg h).trans (if_pos h')⟩)
    · exact .inr (.inr ⟨h, h', (if_neg h).trans (if_neg h')⟩)

/-- What the end of a gap can do (R99, R100). -/
theorem gapEnd_cases (s : State) :
    (s.rep + 1 < s.capReps ∧ gapEnd s = emit (seqBit s 0) { s with rep := s.rep + 1, phase := .bit }) ∨
    (¬s.rep + 1 < s.capReps ∧ gapEnd s = complete { s with rep := s.rep + 1 }) := by
  by_cases h : s.rep + 1 < s.capReps
  · exact .inl ⟨h, if_pos h⟩
  · exact .inr ⟨h, if_neg h⟩

/-- What a tick can do (R97). -/
theorem tick_cases (s : State) :
    ((s.phase = .idle ∨ s.now + 1 ≠ s.deadline) ∧ tick s = { s with now := s.now + 1 }) ∨
    (s.phase = .bit ∧ s.now + 1 = s.deadline ∧ tick s = slotEnd { s with now := s.now + 1 }) ∨
    (s.phase = .gap ∧ s.now + 1 = s.deadline ∧ tick s = gapEnd { s with now := s.now + 1 }) := by
  cases hp : s.phase with
  | idle => exact .inl ⟨.inl rfl, by simp [tick, sequence, hp]⟩
  | bit =>
    have ht : tick s = if s.now + 1 = s.deadline then slotEnd { s with now := s.now + 1 }
        else { s with now := s.now + 1 } := by simp only [tick, sequence, hp]
    by_cases h : s.now + 1 = s.deadline
    · exact .inr (.inl ⟨rfl, h, by rw [ht, if_pos h, hp]⟩)
    · exact .inl ⟨.inr h, by rw [ht, if_neg h, hp]⟩
  | gap =>
    have ht : tick s = if s.now + 1 = s.deadline then gapEnd { s with now := s.now + 1 }
        else { s with now := s.now + 1 } := by simp only [tick, sequence, hp]
    by_cases h : s.now + 1 = s.deadline
    · exact .inr (.inr ⟨rfl, h, by rw [ht, if_pos h, hp]⟩)
    · exact .inl ⟨.inr h, by rw [ht, if_neg h, hp]⟩

/-- Every write of a register other than CTRL has its next state at once (R48). -/
theorem writeReg_next {r : Reg} {v : Word} (h : writeReg r v s = .next t) :
    (r = .cmd ∧ t = { s with cmd := cmdOfWord v }) ∨ (r = .ident ∧ t = { s with ident := v }) ∨
    (r = .ctrl ∧ v.getLsbD 0 = true ∧ exec (fetchCommand s) s = .next t) ∨
    (r = .ctrl ∧ v.getLsbD 0 = false ∧ t = s) ∨ (r = .status ∧ t = clearStatus v s) ∨
    ((r = .now ∨ r = .len ∨ r = .pos) ∧ t = s) := by
  cases r with
  | ctrl =>
    cases hv : v.getLsbD 0
    · simp only [writeReg, hv] at h
      injection h with h
      simp [h]
    · simp only [writeReg, hv, if_true] at h
      simp [h]
  | cmd => injection h with h; simp [h]
  | ident => injection h with h; simp [h]
  | status => injection h with h; simp [h]
  | now => injection h with h; simp [h]
  | len => injection h with h; simp [h]
  | pos => injection h with h; simp [h]

/-- The response of a legal write changes nothing but the bus outputs. -/
theorem respondWritten_next {o : Host.Outcome State Fault Refusal} (h : respondWritten o = .next t) :
    ∃ u, o = .next u ∧ t = { u with busOut := some .written } := by
  cases o with
  | next u => exact ⟨u, rfl, by injection h with h; exact h.symm⟩
  | fault f => cases h
  | refused r => cases h

/-- What an access can do (R44 to R48). -/
theorem access_next {w : Bool} {a : BitVec 5} {v : Word} (h : access w a v s = .next t) :
    (regAt a = none ∧ t = raiseBusError w a s) ∨
    (w = false ∧ ∃ r, regAt a = some r ∧ t = { s with busOut := some (.data (readReg r s)) }) ∨
    (w = true ∧ ∃ r u, regAt a = some r ∧ writeReg r v s = .next u ∧
      t = { u with busOut := some .written }) := by
  cases w with
  | false =>
    simp only [access] at h
    injection h with h
    cases hr : regAt a with
    | none => exact .inl ⟨rfl, by simp [← h, memRead, hr]⟩
    | some r => exact .inr (.inl ⟨rfl, r, rfl, by simp [← h, memRead, hr]⟩)
  | true =>
    cases hr : regAt a with
    | none =>
      simp only [access, memWrite, hr] at h
      injection h with h
      exact .inl ⟨rfl, h.symm⟩
    | some r =>
      simp only [access, memWrite, hr] at h
      obtain ⟨u, hu, ht⟩ := respondWritten_next h
      exact .inr (.inr ⟨rfl, r, u, rfl, hu, ht⟩)

/-- The state in which the access of a cycle happens: after the tick, with no response yet (R15). -/
def afterTick (c : ClkInput) (s : State) : State :=
  if c.usTick then tick { s with busOut := none } else { s with busOut := none }

/-- What a cycle can do (R15). -/
theorem clkCycle_next (h : clkCycle c s = .next t) :
    (c.rst = true ∧ t = resetStep s) ∨
    (c.rst = false ∧ c.busSel = false ∧ t = afterTick c s) ∨
    (c.rst = false ∧ c.busSel = true ∧ access c.busWr c.busAddr c.busWdata (afterTick c s) = .next t) := by
  cases hr : c.rst
  · cases hb : c.busSel
    · refine .inr (.inl ⟨rfl, rfl, ?_⟩)
      simp only [clkCycle, hr, hb, afterTick] at h ⊢
      injection h with h
      exact h.symm
    · refine .inr (.inr ⟨rfl, rfl, ?_⟩)
      simpa [clkCycle, hr, hb, afterTick] using h
  · simp only [clkCycle, hr, if_true] at h
    injection h with h
    exact .inl ⟨rfl, h.symm⟩

/-- What a step can do (R15): the cycle that comes next, with the agenda moved on. -/
theorem step_next (h : step s = .next t) :
    clkCycle (nextInput s) { s with agenda := nextAgenda s } = .next t := h

end Sys2Proof.Machine
end

