-- ==== Sys2Proof/Laws/Encoder.lean ====
section
/-! SUPPORT. The small lemmas of the encoder. -/

namespace Sys2Proof.Machine

@[simp] theorem expL_start_length : (expL .start).length = 11 := rfl

@[simp] theorem expL_digit_length (b : Bool) : (expL (.digit b)).length = 8 := by cases b <;> rfl

@[simp] theorem expL_stop_length : (expL .stop).length = 43 := rfl

@[simp] theorem identityDigits_length (ident : Word) : (identityDigits ident).length = 26 := by simp [identityDigits]

/-- The Learning digits expand to 8 bits each. -/
@[simp] theorem expL_digits_length (ds : List Bool) :
    (List.flatMap expL (ds.map LrnSymbol.digit)).length = 8 * ds.length := by
  induction ds with
  | nil => rfl
  | cons d ds ih => simp [ih]; omega

/-- A tri-state packet expands to its digits' bits and then the stop bits. -/
theorem triPacket_flatMap (P : Params) (house unit pad : List Digit) (act : Bool) :
    (triPacket house unit pad act).flatMap (expT P) =
      (house ++ unit ++ pad ++ [triActDigit act]).flatMap (triDigitBits P) ++ P.triStop := by
  simp [triPacket, List.flatMap_map, List.flatMap_append, expT]

/-- Digits of one expansion length `l` expand to `l` bits each. -/
theorem triDigits_length {P : Params} {l : Nat} (h : ∀ d, (triDigitBits P d).length = l) (ds : List Digit) :
    (ds.flatMap (triDigitBits P)).length = l * ds.length := by
  induction ds with
  | nil => rfl
  | cons d ds ih => simp [ih, h, Nat.mul_add, Nat.add_comm]

/-- In a legal parameter set every digit expands to `L_T` bits (K4, K6). -/
theorem triDigitBits_length {P : Params} (h : P.legal = true) (d : Digit) :
    (triDigitBits P d).length = P.tri0.length := by
  cases d
  · rfl
  · exact (legal_tri_lengths h).2
  · exact (legal_tri_lengths h).1.symm

end Sys2Proof.Machine
end

