-- ==== Sys2Proof/Laws/PerInstr.lean ====
section
/-! SUPPORT. Statements about every command as syntax, one lemma per constructor. -/

namespace Sys2Proof.Laws

/-- A CMD word made from fields has its reserved bits 0 (R60). -/
theorem wordOfCmd_canonical (c : CmdReg) (ident : Word) :
    (CommandWords.mk (wordOfCmd c) ident).canonical = true := by
  have h3 : (wordOfCmd c).getLsbD 3 = false := by
    unfold wordOfCmd
    rw [BitVec.getLsbD_append, BitVec.getLsbD_append, BitVec.getLsbD_append]
    simp
  have hh : (wordOfCmd c).toNat < 65536 := by
    refine Nat.lt_pow_two_of_testBit (n := 16) _ fun i hi => ?_
    change (wordOfCmd c).getLsbD i = false
    unfold wordOfCmd
    rw [BitVec.getLsbD_append, BitVec.getLsbD_append, BitVec.getLsbD_append, BitVec.getLsbD_append,
      BitVec.getLsbD_append]
    simp [show ¬i < 2 by omega, show ¬i - 2 < 1 by omega, show ¬i - 2 - 1 < 1 by omega,
      show ¬i - 2 - 1 - 1 < 4 by omega, show ¬i - 2 - 1 - 1 - 4 < 8 by omega]
  rw [CommandWords.canonical, CommandWords.bit3Zero, CommandWords.highZero, h3]
  simpa using hh

/-- The encoder gives words in canonical form (R60). -/
def EncodesCanonically.Statement (i : Instr) : Prop := (encode i).canonical = true

theorem EncodesCanonically.txLrn (ident : Word) (unit : BitVec 4) (act : Bool) (reps : BitVec 8) :
    EncodesCanonically.Statement (.txLrn ident unit act reps) := wordOfCmd_canonical _ _

theorem EncodesCanonically.txSmp (ident : Word) (unit : BitVec 4) (act : Bool) (reps : BitVec 8) :
    EncodesCanonically.Statement (.txSmp ident unit act reps) := wordOfCmd_canonical _ _

theorem EncodesCanonically.txHle (ident : Word) (unit : BitVec 4) (act : Bool) (reps : BitVec 8) :
    EncodesCanonically.Statement (.txHle ident unit act reps) := wordOfCmd_canonical _ _

theorem EncodesCanonically.reserved (ident : Word) (unit : BitVec 4) (act : Bool) (reps : BitVec 8) :
    EncodesCanonically.Statement (.reserved ident unit act reps) := wordOfCmd_canonical _ _

end Sys2Proof.Laws
end

