-- ==== Sys2Proof/Tests/Slice0.lean ====
section
/-! SUPPORT. Tests: words written out from the spec, vectors of `95_test_vectors.md` (each named there), ill-formed terms
that the checks refuse, and for every statement with hypotheses a state that meets them. -/

namespace Sys2Proof.Tests

open Sys2Proof Sys2Proof.Machine

/-! ### Decoding: words written out from R60 and R63 -/

/-- P1: `0x0000_0114` is TX.LRN with UNIT 1, ACT 1, REPS 1. -/
theorem test_decode_lrn : decode ⟨0x00000114, 0x03FFFFFF⟩ = .txLrn 0x03FFFFFF 1 true 1 := by decide

/-- P2: `0x0000_0105` is TX.SMP with ACT 1, REPS 1. -/
theorem test_decode_smp : decode ⟨0x00000105, 0xA1⟩ = .txSmp 0xA1 0 true 1 := by decide

/-- P4: `0x0000_0202` is TX.HLE with ACT 0, REPS 2. -/
theorem test_decode_hle : decode ⟨0x00000202, 0xA1⟩ = .txHle 0xA1 0 false 2 := by decide

/-- P2: `0x0000_0107` is the reserved variant. -/
theorem test_decode_reserved : decode ⟨0x00000107, 0⟩ = .reserved 0 0 true 1 := by decide

/-- R60: bits 31:16 and 3 set, every field all ones. -/
theorem test_decode_ignores_reserved_bits : decode ⟨0xFFFFFFFC, 0⟩ = .txLrn 0 15 true 255 := by decide

theorem test_table_word : decodeTableWord 32 0x00000114 = some (.txLrn 0 1 true 1) := by decide

theorem test_table_word_two_words : decodeTableWord 64 0x000000A100000105 = some (.txSmp 0xA1 0 true 1) := by decide

theorem test_table_word_too_long : decodeTableWord 72 0 = none := by decide

theorem test_encode_lrn : encode (.txLrn 0 1 true 1) = ⟨0x00000114, 0⟩ := by decide

/-! ### Well-formedness: each check refuses an ill-formed term -/

theorem test_canonical_refuses_bit3 : (CommandWords.mk 0x00000008 0).canonical = false := by decide

theorem test_canonical_refuses_high_bits : (CommandWords.mk 0x00010000 0).canonical = false := by decide

theorem test_canonical_accepts : (CommandWords.mk 0x0000FFF7 0).canonical = true := by decide

theorem test_stmt_refuses_unit_16 : (Stmt.txLrn 0 16 true 1).wf = false := by decide

theorem test_stmt_refuses_reps_256 : (Stmt.txSmp 0 true 256).wf = false := by decide

theorem test_fixture_legal : Params.fixture.legal = true := by decide

theorem test_legal_refuses_base : { Params.fixture with pBase := 8 }.legal = false := by decide

theorem test_legal_refuses_empty_tri : { Params.fixture with tri1 := [] }.triNonEmpty = false := by decide

theorem test_legal_refuses_k1 : { Params.fixture with hleUnit := #v[[.one], [], [], []] }.k1 = false := by decide

theorem test_legal_refuses_k2 :
    { Params.fixture with smpHouse := Params.fixture.smpHouse.set 0 [.x] }.k2 = false := by decide

theorem test_legal_refuses_k3 :
    { Params.fixture with smpUnit := Params.fixture.smpUnit.set 7 [.x] }.k3 = false := by decide

theorem test_legal_refuses_k4 : { Params.fixture with triX := [true] }.k4 = false := by decide

theorem test_legal_refuses_k5 : { Params.fixture with triStop := [false, true] }.k5 = false := by decide

theorem test_legal_refuses_k6 :
    { Params.fixture with hleHouse := Params.fixture.hleHouse.set 3 [.x] }.k6 = false := by decide

theorem test_legal_refuses_k7 : { Params.fixture with pSeqMax := 309 }.k7 = false := by decide

theorem test_legal_refuses_k8 : { Params.fixture with triX := Params.fixture.tri0 }.k8 = false := by decide

theorem test_legal_refuses_d18 :
    { Params.fixture with hleUnit := Params.fixture.hleUnit.set 1 [.x] }.d18 = false := by decide

/-! ### Vectors of the encoder, on the fixture -/

/-- E-L1: the whole sequence, as the 312-bit number the spec prints. -/
theorem test_E_L1 :
    (encodeLearning Params.fixture 0 1 true).seq.foldl (fun n b => 2 * n + b.toNat) 0 * 4 =
      0x801030303030303030303030303030303030303030303030303030303038181818100000000000 := by decide +kernel

/-- E-L5: no unit digits, 294 bits, out of table. -/
theorem test_E_L5 : (encodeLearning Params.fixture 0 0 true).seq.length = 294 ∧ lrnOor 0 = true := by decide +kernel

/-- E-L8: the identity digits `01001000110100010101100111`. -/
theorem test_E_L8 : (identityDigits 0x01234567).foldl (fun n b => 2 * n + b.toNat) 0 =
    0b01001000110100010101100111 := by decide

/-- E-S7: IDENT 0x1234_56A3 is house 0xA, unit 3, in table. -/
theorem test_E_S7 : house 0x123456A3 = 0xA ∧ unitNibble 0x123456A3 = 3 ∧ smpOor 0x123456A3 = false := by decide

/-- E-S3: unit 0 contributes nothing; 72 bits, out of table. -/
theorem test_E_S3 : (encodeSimple Params.fixture 0xA0 true).seq.length = 72 ∧ smpOor 0xA0 = true := by decide +kernel

/-- E-H2: unit 5 is out of table for HellE; 88 bits. -/
theorem test_E_H2 : (encodeHellE Params.fixture 0xA5 true).seq.length = 88 ∧ hleOor 0xA5 = true := by decide +kernel

/-- E-H4: the packet `00000X 000X X0 0 E`. -/
theorem test_E_H4 : hlePacket Params.fixture 0xB2 false =
    [.digit .zero, .digit .zero, .digit .zero, .digit .zero, .digit .zero, .digit .x, .digit .zero, .digit .zero,
     .digit .zero, .digit .x, .digit .x, .digit .zero, .digit .zero, .stop] := by decide

/-! ### Vectors of the machine -/

/-- T1 on the fixture, right after START: STATUS 0x61, LEN 0x136, POS 0. -/
theorem test_T1 :
    let t := start (encodeLearning Params.fixture 0 1 true) 1 State.reset
    (readReg .status t, readReg .len t, readReg .pos t) = (0x61, 0x136, 0) := by decide +kernel

/-- T2 on the fixture: with REPS 0, STATUS reads DONE and nothing else, and there is no event. -/
theorem test_T2 :
    let t := start (encodeLearning Params.fixture 0 1 true) 0 State.reset
    (readReg .status t, readReg .len t, t.events) = (0x02, 0x136, []) := by decide +kernel

/-- A running transmission: slot 1 of a 3-bit sequence, its deadline one tick away. -/
def sending : State :=
  { State.reset with
    phase := .bit, seq := [true, true, false], len := 3, capReps := 2, bit := 1, pin := true, now := 349, deadline := 350,
    capW := .lrn }

/-- The last gap of a transmission, its deadline one tick away. -/
def lastGap : State :=
  { State.reset with phase := .gap, seq := [true, false], len := 2, capReps := 1, now := 9, deadline := 10 }

/-- R98: the next slot starts in the tick that reaches the deadline, one pulse width long. -/
theorem test_slot_end : (tick sending).deadline = 600 ∧ (tick sending).bit = 2 ∧ (tick sending).pin = false := by decide

/-- T8: a START in the cycle of the completion is accepted. -/
theorem test_T8 :
    (match step { lastGap with
        cmd := ⟨0, true, 1, 1⟩
        agenda := [.cycle ⟨false, true, true, true, 0x08, 1⟩] } with
      | .next t => (t.phase, t.pin, t.now, t.deadline, t.errBusy)
      | _ => (.idle, false, 0, 0, true)) = (.bit, true, 10, 260, false) := by decide +kernel

/-- T4: a START while busy with VARIANT 3 sets only ERR_BUSY. -/
theorem test_T4 :
    (match step ({ sending with agenda := [] }.withFetchWord 32 0x00000003) with
      | .next t => (t.errBusy, t.errVariant, t.phase)
      | _ => (false, true, .idle)) = (true, false, .bit) := by decide

/-- T5: an idle START with VARIANT 3 sets ERR_VARIANT and sends nothing. -/
theorem test_T5 :
    (match step (State.reset.withFetchWord 32 0x00000003) with
      | .next t => (t.errBusy, t.errVariant, t.phase, t.len)
      | _ => (true, false, .bit, 1)) = (false, true, .idle, 0) := by decide

/-- The first command of each variant after reset runs: the phase is BIT and the pulse width the variant's. -/
theorem test_first_command_lrn :
    (match step (State.reset.withFetchWord 32 0x00000114) with
      | .next t => (t.phase, t.capW, t.deadline)
      | _ => (.idle, .smp, 0)) = (.bit, .lrn, 250) := by decide

theorem test_first_command_smp :
    (match step (State.reset.withFetchWord 32 0x00000105) with
      | .next t => (t.phase, t.capW, t.deadline)
      | _ => (.idle, .lrn, 0)) = (.bit, .smp, 350) := by decide

theorem test_first_command_hle :
    (match step (State.reset.withFetchWord 32 0x00000202) with
      | .next t => (t.phase, t.capW, t.deadline)
      | _ => (.idle, .lrn, 0)) = (.bit, .hle, 420) := by decide

/-- T6: the deadline wraps with NOW. -/
theorem test_T6 : (start (encodeLearning Params.fixture 0 1 true) 1 { State.reset with now := 0xFFFFFF00 }).deadline =
    0xFFFFFFFA ∧ (0xFFFFFFFA : Word) + 250 = 0x000000F4 := by decide +kernel

/-- B2 and B3: misaligned or unmapped is a bus error. -/
theorem test_B2_B3 : memRead 0x02 State.reset = { State.reset with
      busOut := some .busError, hostFaults := [⟨0, false, 0x02⟩] } ∧
    (memRead 0x1C State.reset).busOut = some .busError := by decide

/-- B5: CMD written all ones reads 0x0000_FFF7. -/
theorem test_B5 : wordOfCmd (cmdOfWord 0xFFFFFFFF) = 0x0000FFF7 := by decide

/-- B7: STATUS 0x0E written 0x4 becomes 0x0A. -/
theorem test_B7 : statusWord (clearStatus 0x4 { State.reset with done := true, errBusy := true, errVariant := true }) =
    0x0A := by decide

/-- B1: the reset value of CMD. -/
theorem test_B1 : readReg .cmd State.reset = 0x00000410 := by decide

/-- R19: NOW, LEN and POS at their offsets. -/
theorem test_register_map : regAt 0x10 = some .now ∧ regAt 0x14 = some .len ∧ regAt 0x18 = some .pos := by decide

/-- R68: `TX.SMP 0xA1, on, 1` writes IDENT, then CMD, then CTRL (the words of P2). -/
theorem test_tx_smp_expands : stmtActions (.txSmp 0xA1 true 1) =
    [.cycle ⟨false, false, true, true, 0x04, 0xA1⟩, .cycle ⟨false, false, true, true, 0x00, 0x105⟩,
     .cycle ⟨false, false, true, true, 0x08, 1⟩] := by decide

/-- R68: the words of the pseudo-instructions of P1 and P4. -/
theorem test_macro_words : macroWord 1 1 true 0 = 0x114 ∧ macroWord 2 0 false 2 = 0x202 := by decide

/-! ### Witnesses: for each statement with hypotheses, operands and a state that meet them together -/

theorem test_witness_canonical : (CommandWords.mk 0x0000FFF7 0xFFFFFFFF).canonical = true := by decide

theorem test_witness_reserved_bits :
    ∀ k, k < 16 → k ≠ 3 → (0x00000114 : Word).getLsbD k = (0xFFFF011C : Word).getLsbD k := by decide

theorem test_witness_opcode_rows : (⟨"(reserved)", 3, 3⟩ : OpcodeRow) ∈ opcodeRows := by decide

theorem test_witness_pseudo_instructions : (15 : Nat) < 16 ∧ (255 : Nat) < 256 := by decide

theorem test_witness_learning_layout :
    (1 ≤ (1#4).toNat ∧ (1#4).toNat ≤ 4) ∧ (1 ≤ (4#4).toNat ∧ (4#4).toNat ≤ 4) ∧
      ¬(1 ≤ (0#4).toNat ∧ (0#4).toNat ≤ 4) ∧ ¬(1 ≤ (5#4).toNat ∧ (5#4).toNat ≤ 4) := by decide

/-- Two identities that differ above bit 25 give one sequence. -/
theorem test_witness_learning_determines :
    1 ≤ (1#4).toNat ∧ (1#4).toNat ≤ 4 ∧ (encodeLearning Params.fixture 0 1 true).seq =
      (encodeLearning Params.fixture 0xFC000000 1 true).seq := by decide +kernel

theorem test_witness_unused_bits :
    (∀ k, k < 26 → (0 : Word).getLsbD k = (0xFC000000 : Word).getLsbD k) ∧
      (∀ k, k < 8 → (0xA3 : Word).getLsbD k = (0x123456A3 : Word).getLsbD k) := by decide

/-- For TriStateSequenceLength, ActivationChangesOneBitGroup, EncodedSequencesEndLowAndFit, WindowAddressesAreOffsets. -/
theorem test_witness_legal : Params.fixture.legal = true := by decide

theorem test_witness_encoded : ∃ e, encodeCommand Params.fixture (.txSmp 0xA1 0 true 1) = some e := ⟨_, rfl⟩

theorem test_witness_window_outside :
    (0x20 : Word).toNat < { Params.fixture with pBase := 0x40 }.pBase.toNat ∧
      { Params.fixture with pBase := 0x40 }.pBase.toNat + 31 < (0x60 : Word).toNat ∧
      { Params.fixture with pBase := 0x40 }.legal = true := by decide

/-- For the three statements that a command starts its transmission and for OutOfTableCommandsAreStillSent. -/
theorem test_witness_start :
    (∃ e, encodeCommand Config.params (.txLrn 0 5 true 255) = some e) ∧ State.reset.phase = .idle ∧
      repsOf (.txLrn 0 5 true 255) ≠ 0 := ⟨⟨_, rfl⟩, rfl, by decide⟩

theorem test_witness_zero_reps :
    (∃ e, encodeCommand Config.params (.txHle 0xA1 0 true 0) = some e) ∧ repsOf (.txHle 0xA1 0 true 0) = 0 ∧
      State.reset.phase = .idle := ⟨⟨_, rfl⟩, rfl, rfl⟩

theorem test_witness_busy : sending.phase ≠ .idle ∧ lastGap.phase ≠ .idle := by decide

/-- StartLeavesEverythingElseAlone: a refusal while busy, a refusal of the reserved variant, and an acceptance. -/
theorem test_witness_start_frame :
    (∃ t, exec (.reserved 0 0 false 0) sending = .next t) ∧ (∃ t, exec (.reserved 0 0 false 0) State.reset = .next t) ∧
      ∃ t, exec (.txLrn 0 1 true 4) State.reset = .next t := ⟨⟨_, rfl⟩, ⟨_, rfl⟩, ⟨_, rfl⟩⟩

/-- A state whose next cycle writes 1 to CTRL. -/
def starting (s : State) : State := { s with agenda := [.cycle (writeCycle 0x08 1)] }

theorem test_witness_step_runs :
    presentsStart (nextInput (starting State.reset)) ∧
      decode ⟨wordOfCmd (starting State.reset).cmd, (starting State.reset).ident⟩ = .txLrn 0 1 false 4 ∧
      ∃ t, exec (.txLrn 0 1 false 4) (accessState (starting State.reset)) = .next t :=
  ⟨⟨1, ⟨rfl, rfl, rfl, rfl, rfl⟩, rfl⟩, by decide, _, rfl⟩

theorem test_witness_brought_up :
    decodeTableWord 32 0x00000105 = some (.txSmp 0 0 true 1) ∧
      ∃ t, exec (.txSmp 0 0 true 1) { State.reset with
        cmd := cmdOfWord (tableWords 32 0x00000105).cmd
        ident := (tableWords 32 0x00000105).ident
        busOut := none } = .next t := ⟨by decide, _, rfl⟩

theorem test_witness_reset_cycle : (nextInput { sending with agenda := [.cycle resetCycle] }).rst = true := rfl

/-- NowCountsTicks: a reset, a tick and a cycle without one. -/
theorem test_witness_now :
    (∃ t, step { sending with agenda := [.cycle resetCycle] } = .next t) ∧
    (∃ t, step sending = .next t ∧ (nextInput sending).rst = false ∧ (nextInput sending).usTick = true) ∧
    ∃ t, step { sending with agenda := [.cycle (readCycle 0)] } = .next t ∧
      (nextInput { sending with agenda := [.cycle (readCycle 0)] }).usTick = false :=
  ⟨⟨_, rfl⟩, ⟨_, rfl, rfl, rfl⟩, ⟨_, rfl, rfl⟩⟩

theorem test_witness_completion_start :
    let s := { lastGap with agenda := [.cycle ⟨false, true, true, true, 0x08, 1⟩] }
    s.phase = .gap ∧ s.now + 1 = s.deadline ∧ ¬s.rep + 1 < s.capReps ∧ (nextInput s).usTick = true ∧
      presentsStart (nextInput s) ∧
      (∃ e, encodeCommand Config.params (decode ⟨wordOfCmd s.cmd, s.ident⟩) = some e) ∧ s.cmd.reps ≠ 0 :=
  ⟨rfl, rfl, by decide, rfl, ⟨1, ⟨rfl, rfl, rfl, rfl, rfl⟩, rfl⟩, ⟨_, rfl⟩, by decide⟩

theorem test_witness_wait :
    { sending with agenda := [.wait Reg.status.offset 1 0] }.agenda = .wait Reg.status.offset 1 0 :: [] := rfl

/-- Both kinds of illegal offset, and the two ends of the legal ones. -/
theorem test_witness_offsets :
    (0x03 : BitVec 5).extractLsb' 0 2 ≠ 0 ∧ (0x1C : BitVec 5) = 0x1C ∧
      ((0x00 : BitVec 5).extractLsb' 0 2 = 0 ∧ (0x00 : BitVec 5) ≠ 0x1C) ∧
      ((0x18 : BitVec 5).extractLsb' 0 2 = 0 ∧ (0x18 : BitVec 5) ≠ 0x1C) := by decide

theorem test_witness_writes :
    (2 : Word).getLsbD 0 = false ∧ (1 : Word).getLsbD 0 = true ∧
      ∃ t, exec (decode ⟨wordOfCmd State.reset.cmd, State.reset.ident⟩) State.reset = .next t :=
  ⟨rfl, rfl, _, rfl⟩

theorem test_witness_register_writes :
    (∃ t, access true 0x00 0xFFFFFFFF State.reset = .next t) ∧ ∃ t, access true 0x0C 0xE sending = .next t :=
  ⟨⟨_, rfl⟩, ⟨_, rfl⟩⟩

/-- TickRunsTheSequencerAtTheDeadline: idle, before a deadline, at the end of a slot and of a gap. -/
theorem test_witness_tick :
    State.reset.phase = .idle ∧ { sending with now := 300 }.now + 1 ≠ sending.deadline ∧
      (sending.phase = .bit ∧ sending.now + 1 = sending.deadline) ∧
      (lastGap.phase = .gap ∧ lastGap.now + 1 = lastGap.deadline) := by decide

/-- SlotEndStartsTheNextSlotOrTheGap: each of its three clauses at its boundary. -/
theorem test_witness_slot_end :
    (sending.bit + 1 < sending.len ∧ sending.seq[(sending.bit + 1).toNat]? = some false) ∧
      (¬{ sending with bit := 2, replay := 3 }.bit + 1 < sending.len ∧
        { sending with bit := 2, replay := 3 }.replay + 1 < 5 ∧ sending.seq[0]? = some true) ∧
      (¬{ sending with bit := 2, replay := 4 }.bit + 1 < sending.len ∧
        ¬{ sending with bit := 2, replay := 4 }.replay + 1 < 5) := by decide

theorem test_witness_gap_end :
    ({ lastGap with capReps := 2 }.rep + 1 < { lastGap with capReps := 2 }.capReps ∧ lastGap.seq[0]? = some true) ∧
      ¬lastGap.rep + 1 < lastGap.capReps := by decide

/-- PinChangesOnlyAtASlotStart: a cycle with a slot start and one without. -/
theorem test_witness_pin :
    (∃ t, step sending = .next t ∧ t.pin = false ∧ (nextInput sending).rst = false) ∧
      ∃ t, step State.reset = .next t ∧ (nextInput State.reset).rst = false :=
  ⟨⟨_, rfl, by decide, rfl⟩, ⟨_, rfl, rfl⟩⟩

theorem test_witness_ends :
    (∃ t, step lastGap = .next t ∧ lastGap.phase ≠ .idle ∧ t.phase = .idle) ∧
      ∃ t, step { sending with agenda := [.cycle resetCycle] } = .next t ∧ sending.phase ≠ .idle ∧ t.phase = .idle :=
  ⟨⟨_, rfl, by decide, by decide⟩, ⟨_, rfl, by decide, rfl⟩⟩

/-- TransmissionsBeginOnlyByStart: from an idle block, and in the cycle whose tick completes a transmission. -/
theorem test_witness_begins :
    (∃ t, step (starting State.reset) = .next t ∧ (nextInput (starting State.reset)).rst = false ∧
      (accessState (starting State.reset)).phase = .idle ∧ t.phase ≠ .idle) ∧
    let s := { lastGap with agenda := [.cycle ⟨false, true, true, true, 0x08, 1⟩] }
    s.phase ≠ .idle ∧ ∃ t, step s = .next t ∧ (nextInput s).rst = false ∧ (accessState s).phase = .idle ∧
      t.phase ≠ .idle :=
  ⟨⟨_, rfl, rfl, by decide, by decide⟩, by decide, _, rfl, rfl, by decide, by decide⟩

/-- EveryStepAnswersANextState: a state with nothing presented. -/
theorem test_witness_empty_agenda : sending.agenda = [] := rfl

/-- DoneRisesOnlyAtCompletion: at the last gap's end, and by a START with REPS = 0. -/
theorem test_witness_done :
    (∃ t, step lastGap = .next t ∧ lastGap.done = false ∧ t.done = true) ∧
      ∃ t, step (starting { State.reset with cmd := ⟨0, true, 1, 0⟩ }) = .next t ∧
        (starting { State.reset with cmd := ⟨0, true, 1, 0⟩ }).done = false ∧ t.done = true :=
  ⟨⟨_, rfl, rfl, by decide⟩, ⟨_, rfl, rfl, by decide⟩⟩

/-- ErrBusyIsStickyAndSetByBusyStarts: set by a busy START, cleared by a write of 1 to its bit. -/
theorem test_witness_err_busy :
    (∃ t, step (starting sending) = .next t ∧ presentsStart (nextInput (starting sending)) ∧
      (accessState (starting sending)).phase ≠ .idle ∧ sending.errBusy = false ∧ t.errBusy = true) ∧
    ∃ t, step { sending with errBusy := true, agenda := [.cycle (writeCycle 0x0C 4)] } = .next t ∧ t.errBusy = false :=
  ⟨⟨_, rfl, ⟨1, ⟨rfl, rfl, rfl, rfl, rfl⟩, rfl⟩, by decide, rfl, by decide⟩, ⟨_, rfl, by decide⟩⟩

/-- ErrVariantIsStickyAndSetByReservedStarts: set by an idle START of VARIANT 3, cleared by a write of 1 to its bit. -/
theorem test_witness_err_variant :
    (∃ t, step (starting { State.reset with cmd := ⟨3, true, 0, 1⟩ }) = .next t ∧
      presentsStart (nextInput (starting { State.reset with cmd := ⟨3, true, 0, 1⟩ })) ∧
      (accessState (starting { State.reset with cmd := ⟨3, true, 0, 1⟩ })).phase = .idle ∧
      State.reset.errVariant = false ∧ t.errVariant = true) ∧
    ∃ t, step { State.reset with errVariant := true, agenda := [.cycle (writeCycle 0x0C 8)] } = .next t ∧
      t.errVariant = false :=
  ⟨⟨_, rfl, ⟨1, ⟨rfl, rfl, rfl, rfl, rfl⟩, rfl⟩, by decide, rfl, by decide⟩, ⟨_, rfl, by decide⟩⟩

/-- A state in each phase meets the invariant and has a next state. -/
theorem test_witness_invariant :
    (Inv sending ∧ ∃ t, step sending = .next t) ∧ (Inv lastGap ∧ ∃ t, step lastGap = .next t) := by
  have h : 310 ≤ Config.params.pSeqMax := (legal_seq_max config_params_legal).1
  have hs : sending.seq.length ≤ Config.params.pSeqMax := le_trans (by decide) h
  have hg : lastGap.seq.length ≤ Config.params.pSeqMax := le_trans (by decide) h
  refine ⟨⟨⟨⟨by decide, hs, by decide⟩, ?_⟩, _, rfl⟩, ⟨⟨⟨by decide, hg, by decide⟩, ?_⟩, _, rfl⟩⟩
  · exact ⟨by decide, by decide, by decide, by decide, by decide, by decide⟩
  · exact ⟨by decide, rfl, rfl, rfl, by decide, by decide, by decide⟩

/-- A run from reset into a slot. -/
theorem test_witness_run :
    ∃ t, Host.Core.run Sys2Proof.core 1 { State.reset with agenda := [.cycle (writeCycle 0x08 1)] } = .next t ∧
      t.phase = .bit := ⟨_, rfl, by decide⟩

theorem test_witness_run_low :
    ∃ t, Host.Core.run Sys2Proof.core 1 { State.reset with agenda := [] } = .next t ∧ t.phase ≠ .bit :=
  ⟨_, rfl, by decide⟩

/-- TransmissionFollowsTheClosedForm and TransmissionRecordsTheScheduledEvents: the command of T1 meets the premises, the
first microsecond lies in a slot, the last before the end in the gap. -/
theorem test_witness_transmission :
    (∃ e, encodeCommand Config.params (.txLrn 0 1 true 1) = some e) ∧ State.reset.phase = .idle ∧
      repsOf (.txLrn 0 1 true 1) ≠ 0 ∧ periodUs (encodeLearning Params.fixture 0 1 true) = 422500 ∧
      frameGroupUs (encodeLearning Params.fixture 0 1 true) = 387500 :=
  ⟨⟨_, rfl⟩, rfl, by decide, by decide +kernel, by decide +kernel⟩

theorem test_witness_two_blocks :
    (∃ e, encodeCommand Config.params (.txLrn 0 1 true 1) = some e) ∧
      (∃ t, exec (.txLrn 0 1 true 1) State.reset = .next t) ∧
      repsOf (.txLrn 0 1 true 1) ≠ 0 ∧
      ∃ t, exec (.txLrn 0 1 true 1) { State.reset with
        ident := 7, done := true, events := [⟨9, true, 1, 2, 3⟩] } = .next t :=
  ⟨⟨_, rfl⟩, ⟨_, rfl⟩, by decide, ⟨_, rfl⟩⟩

theorem test_witness_host_activity :
    (∀ c ∈ [tickCycle, writeCycle 0x08 1, readCycle 0x0C], c.rst = false) ∧
      ∀ k, k ≤ tickCount [tickCycle, writeCycle 0x08 1, readCycle 0x0C] → (ticks k sending).phase ≠ .idle := by
  decide

end Sys2Proof.Tests
end

namespace Sys2Proof.Machine

/-! ### What a step does, seen from the state in which its access happens -/

/-- What a step can do (R15): reset; or, in the state after the cycle's tick, no access or one access. -/
theorem step_cases {s t : State} (h : step s = .next t) :
    ((nextInput s).rst = true ∧ t = resetStep { s with agenda := nextAgenda s }) ∨
    ((nextInput s).rst = false ∧ (nextInput s).busSel = false ∧ t = accessState s) ∨
    ((nextInput s).rst = false ∧ (nextInput s).busSel = true ∧
      access (nextInput s).busWr (nextInput s).busAddr (nextInput s).busWdata (accessState s) = .next t) :=
  clkCycle_next (step_next h)

/-- The end of a slot writes none of the host's registers (R98). -/
theorem slotEnd_host_registers (s : State) : (slotEnd s).cmd = s.cmd ∧ (slotEnd s).ident = s.ident := by
  obtain ⟨-, h⟩ | ⟨-, -, h⟩ | ⟨-, -, h⟩ := slotEnd_cases s <;> simp [h]

/-- The end of a gap writes none of the host's registers (R99, R100). -/
theorem gapEnd_host_registers (s : State) : (gapEnd s).cmd = s.cmd ∧ (gapEnd s).ident = s.ident := by
  obtain ⟨-, h⟩ | ⟨-, h⟩ := gapEnd_cases s <;> simp [h]

/-- A tick writes none of the host's registers (R97). -/
theorem tick_host_registers (s : State) : (tick s).cmd = s.cmd ∧ (tick s).ident = s.ident := by
  obtain ⟨-, h⟩ | ⟨-, -, h⟩ | ⟨-, -, h⟩ := tick_cases s <;> rw [h]
  · exact ⟨rfl, rfl⟩
  · exact slotEnd_host_registers _
  · exact gapEnd_host_registers _

/-- The access of a cycle meets the command registers as they were before the cycle's tick (R15, R61). -/
theorem accessState_cmd (s : State) : (accessState s).cmd = s.cmd := by
  unfold accessState
  split
  · exact (tick_host_registers _).1
  · rfl

/-- An access reaches a register only at that register's offset (R19, R45). -/
theorem eq_offset_of_regAt {a : BitVec 5} {r : Reg} (h : regAt a = some r) : a = r.offset := by
  revert a
  cases r <;> decide

/-! ### Which commands begin a transmission -/

/-- The command in CMD has the repetition count of CMD.REPS (R60). -/
@[simp] theorem repsOf_decodeFields (c : CmdReg) (ident : Word) : repsOf (decodeFields c ident) = c.reps := by
  unfold decodeFields
  split_ifs <;> rfl

/-- VARIANT = 3 selects the command that no encoder takes (R63, R71). -/
theorem encodeCommand_decodeFields_reserved {c : CmdReg} (h : c.variant = 3) (P : Params) (ident : Word) :
    encodeCommand P (decodeFields c ident) = none := by
  simp [decodeFields, h, encodeCommand]

/-- START leaves an idle block idle but for an encodable command with at least one repetition (R90, R94, R95). -/
theorem exec_begins {i : Instr} {s t : State} (h : exec i s = .next t) (hs : s.phase = .idle)
    (ht : t.phase ≠ .idle) : (∃ e, encodeCommand Config.params i = some e) ∧ repsOf i ≠ 0 := by
  obtain ⟨hbusy, -⟩ | ⟨-, -, rfl⟩ | ⟨-, e, he, rfl⟩ := exec_next h
  · exact absurd hs hbusy
  · exact absurd hs ht
  · refine ⟨⟨e, he⟩, fun h0 => ht ?_⟩
    simpa [acceptStart, h0] using hs

/-- A write of a register leaves an idle block idle but for a write of CTRL with bit 0 = 1 that executes the command
in CMD (R48). -/
theorem writeReg_begins {r : Reg} {v : Word} {s t : State} (h : writeReg r v s = .next t) (hs : s.phase = .idle)
    (ht : t.phase ≠ .idle) : r = .ctrl ∧ v.getLsbD 0 = true ∧ exec (fetchCommand s) s = .next t := by
  obtain ⟨-, rfl⟩ | ⟨-, rfl⟩ | hstart | ⟨-, -, rfl⟩ | ⟨-, rfl⟩ | ⟨-, rfl⟩ := writeReg_next h
  case inr.inr.inl => exact hstart
  all_goals exact absurd hs ht

/-- An access leaves an idle block idle but for a write of CTRL with bit 0 = 1 that executes the command in CMD
(R44 to R48). -/
theorem access_begins {w : Bool} {a : BitVec 5} {v : Word} {s t : State} (h : access w a v s = .next t)
    (hs : s.phase = .idle) (ht : t.phase ≠ .idle) :
    w = true ∧ a = Reg.ctrl.offset ∧ v.getLsbD 0 = true ∧
      ∃ u, exec (fetchCommand s) s = .next u ∧ u.phase ≠ .idle := by
  obtain ⟨-, rfl⟩ | ⟨-, r, -, rfl⟩ | ⟨hw, r, u, hr, hu, rfl⟩ := access_next h
  · exact absurd hs ht
  · exact absurd hs ht
  · obtain ⟨rfl, hv, hexec⟩ := writeReg_begins hu hs ht
    exact ⟨hw, eq_offset_of_regAt hr, hv, u, hexec, ht⟩

/-- Settles O46: of the three things a step can do, only an access can make an idle block busy, of the accesses only a
START, and of the commands only an encodable one with a repetition to send. -/
theorem transmissionsBeginOnlyByStart : Obligations.TransmissionsBeginOnlyByStart := by
  unfold Obligations.TransmissionsBeginOnlyByStart
  intro s t h hrst hidle hbusy
  obtain ⟨hr, -⟩ | ⟨-, -, rfl⟩ | ⟨-, hsel, hacc⟩ := step_cases h
  · simp [hrst] at hr
  · exact absurd hidle hbusy
  · obtain ⟨hw, ha, hv, u, hexec, hu⟩ := access_begins hacc hidle hbusy
    obtain ⟨⟨e, he⟩, hreps⟩ := exec_begins hexec hidle hu
    rw [← accessState_cmd s]
    refine ⟨⟨_, ⟨hrst, hsel, hw, ha, rfl⟩, hv⟩, fun h3 => ?_, by simpa [fetchCommand] using hreps⟩
    simp [fetchCommand, encodeCommand_decodeFields_reserved h3] at he

/-! ### The branches of a tick, one equation each -/

section
variable {s : State}

/-- Within a frame, the next bit's slot starts (R98). -/
theorem slotEnd_of_bit_lt (hb : s.bit + 1 < s.len) :
    slotEnd s = emit (seqBit s (s.bit + 1).toNat) { s with bit := s.bit + 1 } := if_pos hb

/-- At the end of a frame with a replay left, the first slot of the next replay starts (R98). -/
theorem slotEnd_of_replay_lt (hb : ¬s.bit + 1 < s.len) (hr : s.replay + 1 < 5) :
    slotEnd s = emit (seqBit s 0) { s with bit := 0, replay := s.replay + 1 } := (if_neg hb).trans (if_pos hr)

/-- At the end of the last replay the gap starts (R98). -/
theorem slotEnd_of_last_replay (hb : ¬s.bit + 1 < s.len) (hr : ¬s.replay + 1 < 5) :
    slotEnd s = { s with bit := 0, replay := 0, phase := .gap, deadline := s.deadline + 35000 } :=
  (if_neg hb).trans (if_neg hr)

/-- With a repetition left, its first slot starts (R99). -/
theorem gapEnd_of_rep_lt (hr : s.rep + 1 < s.capReps) :
    gapEnd s = emit (seqBit s 0) { s with rep := s.rep + 1, phase := .bit } := if_pos hr

/-- After the last repetition the transmission completes (R99, R100). -/
theorem gapEnd_of_last_rep (hr : ¬s.rep + 1 < s.capReps) : gapEnd s = complete { s with rep := s.rep + 1 } :=
  if_neg hr

/-- While idle or before the deadline, a tick only advances NOW (R97). -/
theorem tick_of_waiting (h : s.phase = .idle ∨ s.now + 1 ≠ s.deadline) : tick s = { s with now := s.now + 1 } := by
  obtain ⟨-, ht⟩ | ⟨hp, hd, -⟩ | ⟨hp, hd, -⟩ := tick_cases s
  · exact ht
  · exact absurd hd (h.resolve_left (by simp [hp]))
  · exact absurd hd (h.resolve_left (by simp [hp]))

/-- At the deadline of a slot, a tick ends the slot (R97). -/
theorem tick_of_slot_over (hp : s.phase = .bit) (hd : s.now + 1 = s.deadline) :
    tick s = slotEnd { s with now := s.now + 1 } := by
  obtain ⟨h, -⟩ | ⟨-, -, ht⟩ | ⟨hp', -⟩ := tick_cases s
  · exact absurd hd (h.resolve_left (by simp [hp]))
  · exact ht
  · simp [hp] at hp'

/-- At the deadline of a gap, a tick ends the gap (R97). -/
theorem tick_of_gap_over (hp : s.phase = .gap) (hd : s.now + 1 = s.deadline) :
    tick s = gapEnd { s with now := s.now + 1 } := by
  obtain ⟨h, -⟩ | ⟨hp', -⟩ | ⟨-, -, ht⟩ := tick_cases s
  · exact absurd hd (h.resolve_left (by simp [hp]))
  · simp [hp] at hp'
  · exact ht

end

/-! ### The sequencer reads neither the host's registers nor the trace recorded before -/

/-- The sequencer of `s` stands where the sequencer of `u` stands, and the trace of `s` is that of `u` after the
earlier events `old`. -/
def Extends (old : List SlotEvent) (s u : State) : Prop :=
  sequencerView s = sequencerView { u with events := old ++ u.events }

section
variable {old : List SlotEvent} {s u : State}

theorem extends_iff : Extends old s u ↔ s.now = u.now ∧ s.phase = u.phase ∧ s.seq = u.seq ∧ s.len = u.len ∧
    s.capW = u.capW ∧ s.capReps = u.capReps ∧ s.rep = u.rep ∧ s.replay = u.replay ∧ s.bit = u.bit ∧
    s.deadline = u.deadline ∧ s.pin = u.pin ∧ s.events = old ++ u.events := by
  simp [Extends, sequencerView]

/-- Without the earlier events, the view of the extending state is the view of the other. -/
theorem Extends.view_drop (h : Extends old s u) :
    sequencerView { s with events := s.events.drop old.length } = sequencerView u := by
  have hevents : s.events.drop old.length = u.events := by
    rw [show s.events = old ++ u.events from congrArg SequencerView.events h, List.drop_left]
  calc sequencerView { s with events := s.events.drop old.length }
      = { sequencerView s with events := u.events } := by rw [hevents]; rfl
    _ = sequencerView u := by rw [show sequencerView s = _ from h]; rfl

/-- The end of a slot goes the same way in both (R98). -/
theorem slotEnd_extends (h : Extends old s u) : Extends old (slotEnd s) (slotEnd u) := by
  obtain ⟨hnow, hphase, hseq, hlen, hcapW, hcapReps, hrep, hreplay, hbit, hdeadline, hpin, hevents⟩ := extends_iff.1 h
  obtain ⟨hb, hu⟩ | ⟨hb, hr, hu⟩ | ⟨hb, hr, hu⟩ := slotEnd_cases u
  · rw [hu, slotEnd_of_bit_lt (by rwa [hbit, hlen])]
    simp [extends_iff, seqBit, *]
  · rw [hu, slotEnd_of_replay_lt (by rwa [hbit, hlen]) (by rwa [hreplay])]
    simp [extends_iff, seqBit, *]
  · rw [hu, slotEnd_of_last_replay (by rwa [hbit, hlen]) (by rwa [hreplay])]
    simp [extends_iff, *]

/-- The end of a gap goes the same way in both (R99, R100). -/
theorem gapEnd_extends (h : Extends old s u) : Extends old (gapEnd s) (gapEnd u) := by
  obtain ⟨hnow, hphase, hseq, hlen, hcapW, hcapReps, hrep, hreplay, hbit, hdeadline, hpin, hevents⟩ := extends_iff.1 h
  obtain ⟨hr, hu⟩ | ⟨hr, hu⟩ := gapEnd_cases u
  · rw [hu, gapEnd_of_rep_lt (by rwa [hrep, hcapReps])]
    simp [extends_iff, seqBit, *]
  · rw [hu, gapEnd_of_last_rep (by rwa [hrep, hcapReps])]
    simp [extends_iff, *]

/-- A tick goes the same way in both (R97). -/
theorem tick_extends (h : Extends old s u) : Extends old (tick s) (tick u) := by
  obtain ⟨hnow, hphase, -, -, -, -, -, -, -, hdeadline, -⟩ := extends_iff.1 h
  have hadvance : Extends old { s with now := s.now + 1 } { u with now := u.now + 1 } := by
    simpa [extends_iff] using extends_iff.1 h
  obtain ⟨hw, hu⟩ | ⟨hp, hd, hu⟩ | ⟨hp, hd, hu⟩ := tick_cases u
  · rw [hu, tick_of_waiting (by rwa [hphase, hnow, hdeadline])]
    exact hadvance
  · rw [hu, tick_of_slot_over (by rwa [hphase]) (by rwa [hnow, hdeadline])]
    exact slotEnd_extends hadvance
  · rw [hu, tick_of_gap_over (by rwa [hphase]) (by rwa [hnow, hdeadline])]
    exact gapEnd_extends hadvance

/-- Any number of ticks goes the same way in both. -/
theorem ticks_extends (n : Nat) (h : Extends old s u) : Extends old (ticks n s) (ticks n u) := by
  induction n generalizing s u with
  | zero => exact h
  | succ n ih => exact ih (tick_extends h)

end

/-- Transmissions that begin at one time with one capture differ only by the trace recorded before (R57, R90). -/
theorem beginTransmission_extends (e : Encoded) (reps : BitVec 8) {s u : State} (hnow : s.now = u.now) :
    Extends s.events (beginTransmission (capture e reps s))
      (beginTransmission (capture e reps { u with events := [] })) := by
  simp [extends_iff, seqBit, hnow]

/-- An encodable command with a repetition to send begins its transmission on an idle block (R90). -/
theorem exec_eq_beginTransmission {i : Instr} {e : Encoded} {s t : State} (h : exec i s = .next t)
    (he : encodeCommand Config.params i = some e) (hreps : repsOf i ≠ 0) (hs : s.phase = .idle) :
    t = beginTransmission (capture e (repsOf i) s) := by
  obtain ⟨hbusy, -⟩ | ⟨-, hnone, -⟩ | ⟨-, e', he', rfl⟩ := exec_next h
  · exact absurd hs hbusy
  · simp [he] at hnone
  · obtain rfl : e = e' := by simpa [he] using he'
    exact if_neg hreps

/-- Settles O56: the first run, and the second one with it, extends the run of the first block with an empty trace. -/
theorem waveformDependsOnlyOnCommandAndTime : Obligations.WaveformDependsOnlyOnCommandAndTime := by
  unfold Obligations.WaveformDependsOnlyOnCommandAndTime
  intro i e s s' t t' n he hreps hs hs' hnow h h'
  rw [exec_eq_beginTransmission h he hreps hs, exec_eq_beginTransmission h' he hreps hs']
  have hrun := ticks_extends n (beginTransmission_extends e (repsOf i) (u := s) rfl)
  have hrun' := ticks_extends n (beginTransmission_extends e (repsOf i) hnow.symm)
  exact hrun.view_drop.trans hrun'.view_drop.symm

end Sys2Proof.Machine

namespace Sys2Proof.Machine

/-! ### The words of CMD and STATUS, bit by bit -/

/-- The bits of a CMD word, field by field (R20). -/
theorem wordOfCmd_getLsbD (c : CmdReg) {k : Nat} (hk : k < 32) : (wordOfCmd c).getLsbD k =
    if k < 2 then c.variant.getLsbD k else if k = 2 then c.act else if k = 3 then false
    else if k < 8 then c.unit.getLsbD (k - 4) else c.reps.getLsbD (k - 8) := by
  unfold wordOfCmd
  iterate 5 rw [BitVec.getLsbD_append]
  interval_cases k <;> simp

/-- The bits of a STATUS word, field by field (R27). -/
theorem statusWord_getLsbD (s : State) {k : Nat} (hk : k < 32) : (statusWord s).getLsbD k =
    if k = 0 then s.busy else if k = 1 then s.done else if k = 2 then s.errBusy else if k = 3 then s.errVariant
    else if k = 4 then s.oor else if k = 5 then s.pin else (phaseCode s.phase).getLsbD (k - 6) := by
  unfold statusWord
  iterate 7 rw [BitVec.getLsbD_append]
  interval_cases k <;> simp

/-- The fields of CMD survive being read as a word and written back (R20, R60). -/
theorem cmdOfWord_wordOfCmd (c : CmdReg) : cmdOfWord (wordOfCmd c) = c := by
  have hbit (k : Nat) (hk : k < 32) := wordOfCmd_getLsbD c hk
  obtain ⟨variant, act, unit, reps⟩ := c
  simp only [cmdOfWord, CmdReg.mk.injEq]
  refine ⟨?variant, hbit 2 (by decide), ?unit, ?reps⟩
  all_goals
    refine BitVec.eq_of_getLsbD_eq fun k hk => ?_
    rw [BitVec.getLsbD_extractLsb', hbit _ (by omega)]
    interval_cases k <;> simp

/-- Written to CMD, a word keeps all bits but the reserved ones (R20). -/
theorem wordOfCmd_cmdOfWord (v : Word) : wordOfCmd (cmdOfWord v) = v &&& 0x0000FFF7 := by
  refine BitVec.eq_of_getLsbD_eq fun k hk => ?_
  rw [wordOfCmd_getLsbD _ hk]
  interval_cases k <;> simp [cmdOfWord]

/-- STATUS after a write of `v`: the W1C bits that are 1 in `v` are 0, every other bit is as it was (R27). -/
theorem statusWord_clearStatus (v : Word) (s : State) :
    statusWord (clearStatus v s) = statusWord s &&& ~~~(v &&& 0x0000000E) := by
  refine BitVec.eq_of_getLsbD_eq fun k hk => ?_
  rw [statusWord_getLsbD _ hk, BitVec.getLsbD_and, statusWord_getLsbD _ hk]
  interval_cases k <;> simp [State.busy, Bool.and_comm]

/-! ### What a tick, a command and an access leave alone -/

/-- The tick at the deadline of the last repetition's gap completes the transmission (R99, R100). -/
def CompletesNextTick (s : State) : Prop := s.phase = .gap ∧ s.now + 1 = s.deadline ∧ ¬s.rep + 1 < s.capReps

section
variable {s t : State} {i : Instr}

/-- The end of a slot raises no flag and clears none, stays within the transmission, and leaves NOW alone (R98). -/
theorem slotEnd_frame (hp : s.phase = .bit) :
    (slotEnd s).now = s.now ∧ (slotEnd s).done = s.done ∧ (slotEnd s).errBusy = s.errBusy ∧
      (slotEnd s).errVariant = s.errVariant ∧ (slotEnd s).phase ≠ .idle := by
  obtain ⟨-, h⟩ | ⟨-, -, h⟩ | ⟨-, -, h⟩ := slotEnd_cases s <;> simp [h, hp]

/-- The end of a gap leaves NOW and the error flags alone (R99, R100). -/
theorem gapEnd_frame (s : State) :
    (gapEnd s).now = s.now ∧ (gapEnd s).errBusy = s.errBusy ∧ (gapEnd s).errVariant = s.errVariant := by
  obtain ⟨-, h⟩ | ⟨-, h⟩ := gapEnd_cases s <;> simp [h]

/-- A tick advances NOW by 1 and leaves the error flags alone (R35, R97). -/
theorem tick_frame (s : State) :
    (tick s).now = s.now + 1 ∧ (tick s).errBusy = s.errBusy ∧ (tick s).errVariant = s.errVariant := by
  obtain ⟨-, h⟩ | ⟨hp, -, h⟩ | ⟨-, -, h⟩ := tick_cases s <;> rw [h]
  · exact ⟨rfl, rfl, rfl⟩
  · obtain ⟨hnow, -, hbusy, hvariant, -⟩ := slotEnd_frame (s := { s with now := s.now + 1 }) hp
    exact ⟨hnow, hbusy, hvariant⟩
  · exact gapEnd_frame _

/-- Only the tick that completes a transmission writes DONE or makes a busy block idle (R28, R29, R97). -/
theorem tick_of_not_completing (h : ¬CompletesNextTick s) :
    (tick s).done = s.done ∧ ((tick s).phase = .idle ↔ s.phase = .idle) := by
  obtain ⟨-, ht⟩ | ⟨hp, -, ht⟩ | ⟨hp, hd, ht⟩ := tick_cases s
  · rw [ht]
    exact ⟨rfl, Iff.rfl⟩
  · obtain ⟨-, hdone, -, -, hphase⟩ := slotEnd_frame (s := { s with now := s.now + 1 }) hp
    rw [ht]
    exact ⟨hdone, iff_of_false hphase (by simp [hp])⟩
  · obtain ⟨-, hgap⟩ | ⟨hlast, -⟩ := gapEnd_cases { s with now := s.now + 1 }
    · rw [ht, hgap]
      simp [hp]
    · exact absurd ⟨hp, hd, hlast⟩ h

/-- START of a command leaves NOW alone (R57). -/
theorem exec_now (h : exec i s = .next t) : t.now = s.now := by
  obtain ⟨-, rfl⟩ | ⟨-, -, rfl⟩ | ⟨-, e, -, rfl⟩ := exec_next h
  · rfl
  · rfl
  · obtain ⟨-, ht⟩ | ⟨-, ht⟩ := acceptStart_cases e (repsOf i) s <;> simp [ht]

/-- A command ends no transmission (R90, R103). -/
theorem exec_idle (h : exec i s = .next t) (ht : t.phase = .idle) : s.phase = .idle := by
  obtain ⟨-, rfl⟩ | ⟨hs, -⟩ | ⟨hs, -⟩ := exec_next h
  · exact ht
  · exact hs
  · exact hs

/-- DONE rises by a command only when it is accepted with nothing to send (R90, R95). -/
theorem exec_done_rises (h : exec i s = .next t) (hs : s.done = false) (ht : t.done = true) :
    s.phase = .idle ∧ (∃ e, encodeCommand Config.params i = some e) ∧ repsOf i = 0 := by
  obtain ⟨-, rfl⟩ | ⟨-, -, rfl⟩ | ⟨hidle, e, he, rfl⟩ := exec_next h
  · simp [hs] at ht
  · simp [hs] at ht
  · obtain ⟨hreps, -⟩ | ⟨-, hacc⟩ := acceptStart_cases e (repsOf i) s
    · exact ⟨hidle, ⟨e, he⟩, hreps⟩
    · simp [hacc] at ht

/-- A command writes ERR_BUSY only to set it, and sets it exactly while BUSY (R30, R90). -/
theorem exec_errBusy (h : exec i s = .next t) : t.errBusy = true ↔ s.errBusy = true ∨ s.phase ≠ .idle := by
  obtain ⟨hs, rfl⟩ | ⟨hs, -, rfl⟩ | ⟨hs, e, -, rfl⟩ := exec_next h
  · simp [hs]
  · simp [hs]
  · obtain ⟨-, ht⟩ | ⟨-, ht⟩ := acceptStart_cases e (repsOf i) s <;> simp [ht, hs]

/-- A command writes ERR_VARIANT only to set it, and sets it exactly when it has no encoder and the block is idle
(R31, R94). -/
theorem exec_errVariant (h : exec i s = .next t) :
    t.errVariant = true ↔ s.errVariant = true ∨ (s.phase = .idle ∧ encodeCommand Config.params i = none) := by
  obtain ⟨hs, rfl⟩ | ⟨hs, he, rfl⟩ | ⟨hs, e, he, rfl⟩ := exec_next h
  · simp [hs]
  · simp [hs, he]
  · obtain ⟨-, ht⟩ | ⟨-, ht⟩ := acceptStart_cases e (repsOf i) s <;> simp [ht, he]

/-- Every command is refused while BUSY (R90, R108). -/
theorem exec_of_busy (i : Instr) (hs : s.phase ≠ .idle) : exec i s = .next (raiseErrBusy s) := by
  have hb : s.busy = true := busy_iff.2 hs
  cases i <;> simp [exec, execTxLrn, execTxSmp, execTxHle, execReserved, start, startReserved, hb]

/-- A command that no encoder takes is refused on an idle block (R90, R94). -/
theorem exec_of_no_encoding (hs : s.phase = .idle) (hi : encodeCommand Config.params i = none) :
    exec i s = .next (raiseErrVariant s) := by
  have hb : s.busy = false := not_busy_iff.2 hs
  cases i with
  | reserved => simp [exec, execReserved, startReserved, hb]
  | _ => cases hi

/-- VARIANT = 3 is the only one that selects a command without an encoder (R63, R71). -/
theorem encodeCommand_decodeFields_eq_none_iff (P : Params) (c : CmdReg) (ident : Word) :
    encodeCommand P (decodeFields c ident) = none ↔ c.variant = 3 := by
  refine ⟨fun h => ?_, fun h => encodeCommand_decodeFields_reserved h P ident⟩
  have hrest : ∀ v : BitVec 2, v ≠ 0 → v ≠ 1 → v ≠ 2 → v = 3 := by decide
  apply hrest <;> intro hv <;> simp [decodeFields, hv, encodeCommand] at h

end

/-! ### What a step can do, seen from the host -/

section
variable {s t : State}

theorem accessState_ident (s : State) : (accessState s).ident = s.ident := by
  unfold accessState
  split
  · exact (tick_host_registers _).2
  · rfl

/-- The command in CMD and IDENT is the same before and after the cycle's tick (R57, R61). -/
theorem fetchCommand_accessState (s : State) : fetchCommand (accessState s) = decodeFields s.cmd s.ident := by
  rw [fetchCommand, accessState_cmd, accessState_ident]

/-- The tick before an access leaves the error flags alone. -/
theorem accessState_flags (s : State) :
    (accessState s).errBusy = s.errBusy ∧ (accessState s).errVariant = s.errVariant := by
  unfold accessState
  split
  · exact (tick_frame _).2
  · exact ⟨rfl, rfl⟩

/-- The access of a cycle meets NOW advanced by the cycle's tick, if it has one (R15, R35). -/
theorem accessState_now (s : State) :
    (accessState s).now = if (nextInput s).usTick then s.now + 1 else s.now := by
  unfold accessState
  split
  · exact (tick_frame _).1
  · rfl

/-- Before a cycle's access, only the tick that completes a transmission writes DONE or makes a busy block idle. -/
theorem accessState_of_not_completing (h : ¬((nextInput s).usTick = true ∧ CompletesNextTick s)) :
    (accessState s).done = s.done ∧ ((accessState s).phase = .idle ↔ s.phase = .idle) := by
  unfold accessState
  split
  · next htick => exact tick_of_not_completing fun hc => h ⟨htick, hc⟩
  · exact ⟨rfl, Iff.rfl⟩

/-- A cycle that presents a START runs the command in CMD and IDENT in the state of its access, and answers as a legal
write (R44, R61). -/
theorem step_of_presentsStart (h : presentsStart (nextInput s)) :
    step s = respondWritten (exec (decodeFields s.cmd s.ident) (accessState s)) := by
  obtain ⟨v, ⟨hrst, hsel, hwr, haddr, rfl⟩, hv⟩ := h
  have hcycle : step s =
      access (nextInput s).busWr (nextInput s).busAddr (nextInput s).busWdata (accessState s) := by
    simp only [step_eq, clkCycle, hrst, hsel, accessState, if_true, Bool.false_eq_true, if_false]
  have hctrl : regAt Reg.ctrl.offset = some .ctrl := by decide
  rw [hcycle, hwr, haddr]
  simp only [access, if_true, memWrite, hctrl, writeReg, hv, fetchCommand_accessState]

/-- `t` differs from `s` at most in what the host's side of the block holds: CMD, IDENT, the bus outputs and the fault
record. So does every access that is neither a START nor a STATUS write. -/
def HostSideOnly (s t : State) : Prop :=
  t = { s with cmd := t.cmd, ident := t.ident, busOut := t.busOut, hostFaults := t.hostFaults }

/-- What a step can do, from the state of its access on: reset; the command of a START; the write-1-to-clear of a STATUS
write; and else nothing but to the host's side of the block (R15, R48). -/
theorem step_effect (h : step s = .next t) :
    ((nextInput s).rst = true ∧ t = resetStep { s with agenda := nextAgenda s }) ∨
    ((nextInput s).rst = false ∧ presentsStart (nextInput s) ∧
      ∃ u, exec (decodeFields s.cmd s.ident) (accessState s) = .next u ∧ t = { u with busOut := some .written }) ∨
    ((nextInput s).rst = false ∧ ∃ v, writesReg .status v (nextInput s) ∧
      t = { clearStatus v (accessState s) with busOut := some .written }) ∨
    ((nextInput s).rst = false ∧ HostSideOnly (accessState s) t) := by
  obtain hreset | ⟨hrst, -, rfl⟩ | ⟨hrst, hsel, hacc⟩ := step_cases h
  · exact .inl hreset
  · exact .inr (.inr (.inr ⟨hrst, rfl⟩))
  obtain ⟨-, rfl⟩ | ⟨-, r, -, rfl⟩ | ⟨hwr, r, u, hr, hu, rfl⟩ := access_next hacc
  · exact .inr (.inr (.inr ⟨hrst, rfl⟩))
  · exact .inr (.inr (.inr ⟨hrst, rfl⟩))
  have hwrites : writesReg r (nextInput s).busWdata (nextInput s) := ⟨hrst, hsel, hwr, eq_offset_of_regAt hr, rfl⟩
  obtain ⟨-, rfl⟩ | ⟨-, rfl⟩ | ⟨rfl, hv, hexec⟩ | ⟨-, -, rfl⟩ | ⟨rfl, rfl⟩ | ⟨-, rfl⟩ := writeReg_next hu
  · exact .inr (.inr (.inr ⟨hrst, rfl⟩))
  · exact .inr (.inr (.inr ⟨hrst, rfl⟩))
  · rw [fetchCommand_accessState] at hexec
    exact .inr (.inl ⟨hrst, ⟨_, hwrites, hv⟩, u, hexec, rfl⟩)
  · exact .inr (.inr (.inr ⟨hrst, rfl⟩))
  · exact .inr (.inr (.inl ⟨hrst, _, hwrites, rfl⟩))
  · exact .inr (.inr (.inr ⟨hrst, rfl⟩))

end

/-! ### The encoded sequences end low and fit the sequence buffer -/

/-- A sequence that the buffer can hold and that leaves the pin low: it ends in a 0 bit (R102) and has at most
P_SEQ_MAX bits (K7). Ending in a bit, it is not empty. -/
def EndsLowAndFits (P : Params) (q : Bits) : Prop := q.getLast? = some false ∧ q.length ≤ P.pSeqMax

/-- A Learning unit has at most two digits (R73). -/
theorem lrnUnitDigits_length_le (unit : BitVec 4) : (lrnUnitDigits unit).length ≤ 2 := by
  unfold lrnUnitDigits
  split_ifs <;> decide

/-- A Learning sequence ends in the stop symbol's zeros and has at most 310 bits (R69, R74, R76). -/
theorem encodeLearning_endsLowAndFits {P : Params} (hP : P.legal = true) (ident : Word) (unit : BitVec 4) (act : Bool) :
    EndsLowAndFits P (encodeLearning P ident unit act).seq := by
  obtain ⟨hmax, -⟩ := legal_seq_max hP
  have hunit := lrnUnitDigits_length_le unit
  have hlast : (expL .stop).getLast? = some false := by decide
  constructor
  · simp [encodeLearning, lrnPacket, List.getLast?_append, hlast]
  · have hlen : (encodeLearning P ident unit act).seq.length = 294 + 8 * (lrnUnitDigits unit).length := by
      simp only [encodeLearning, lrnPacket, List.flatMap_append, List.length_append, expL_digits_length,
        identityDigits_length, List.flatMap_cons, List.flatMap_nil, expL_start_length, expL_digit_length,
        expL_stop_length, List.length_nil]
      omega
    omega

/-- A lookup in a table, which may be for a value without an entry, gives no more digits than the longest entry has. -/
theorem lookup_length_le (p : Prop) [Decidable p] (table : List (List Digit)) (k : Nat) :
    (if p then table.getD k [] else []).length ≤ longestEntry table := by
  split
  · by_cases hk : k < table.length
    · rw [List.getD_eq_getElem _ _ hk]
      exact length_le_longestEntry (List.getElem_mem hk)
    · rw [List.getD_eq_default _ _ (Nat.le_of_not_lt hk)]
      exact Nat.zero_le _
  · exact Nat.zero_le _

/-- A tri-state packet whose fields come from two tables ends in the stop bits' 0 (K5), and has at most as many bits as
the longest packet of these tables (R87). -/
theorem triPacket_endsLow_and_length_le {P : Params} (hP : P.legal = true) {houses units : List (List Digit)}
    {house unit : List Digit} (hhouse : house.length ≤ longestEntry houses) (hunit : unit.length ≤ longestEntry units)
    (pad : List Digit) (act : Bool) :
    ((triPacket house unit pad act).flatMap (expT P)).getLast? = some false ∧
      ((triPacket house unit pad act).flatMap (expT P)).length ≤ longestTri P houses units pad := by
  rw [triPacket_flatMap]
  constructor
  · rw [List.getLast?_append, legal_stop_last hP]
    rfl
  · rw [List.length_append, triDigits_length (triDigitBits_length hP)]
    simp only [List.length_append, List.length_singleton, longestTri]
    gcongr

/-- A Simple sequence follows the house and unit tables of its variant (R79, R80). -/
theorem encodeSimple_endsLowAndFits {P : Params} (hP : P.legal = true) (ident : Word) (act : Bool) :
    EndsLowAndFits P (encodeSimple P ident act).seq :=
  let ⟨_, hmax, _⟩ := legal_seq_max hP
  (triPacket_endsLow_and_length_le hP (lookup_length_le _ _ _) (lookup_length_le _ _ _) _ act).imp id (le_trans · hmax)

/-- A HellE sequence follows the house and unit tables of its variant (R82, R83). -/
theorem encodeHellE_endsLowAndFits {P : Params} (hP : P.legal = true) (ident : Word) (act : Bool) :
    EndsLowAndFits P (encodeHellE P ident act).seq :=
  let ⟨_, _, hmax, _⟩ := legal_seq_max hP
  (triPacket_endsLow_and_length_le hP (lookup_length_le _ _ _) (lookup_length_le _ _ _) _ act).imp id (le_trans · hmax)

/-- What the encoder gives START ends low and fits the buffer, for every command it takes (R71, K5, K7). -/
theorem encodeCommand_endsLowAndFits {P : Params} (hP : P.legal = true) {i : Instr} {e : Encoded}
    (he : encodeCommand P i = some e) : EndsLowAndFits P e.seq := by
  cases i with
  | txLrn ident unit act reps => cases he; exact encodeLearning_endsLowAndFits hP ident unit act
  | txSmp ident unit act reps => cases he; exact encodeSimple_endsLowAndFits hP ident act
  | txHle ident unit act reps => cases he; exact encodeHellE_endsLowAndFits hP ident act
  | reserved ident unit act reps => cases he

theorem EndsLowAndFits.length_pos {P : Params} {q : Bits} (h : EndsLowAndFits P q) : 0 < q.length := by
  obtain ⟨hlast, -⟩ := h
  cases q with
  | nil => cases hlast
  | cons b q => simp

/-! ### The invariant, phase by phase -/

section
variable {s t : State}

theorem phaseHeld_of_idle (hp : s.phase = .idle) :
    PhaseHeld s ↔ s.rep = 0 ∧ s.replay = 0 ∧ s.bit = 0 ∧ s.pin = false := by
  simp only [PhaseHeld, hp]

theorem phaseHeld_of_bit (hp : s.phase = .bit) :
    PhaseHeld s ↔ s.rep < s.capReps ∧ s.replay < 5 ∧ s.bit < s.len ∧ s.seq[s.bit.toNat]? = some s.pin ∧
      DeadlineWithin (widthUs s.capW).toNat s := by
  simp only [PhaseHeld, hp]

theorem phaseHeld_of_gap (hp : s.phase = .gap) :
    PhaseHeld s ↔ s.rep < s.capReps ∧ s.replay = 0 ∧ s.bit = 0 ∧ s.pin = false ∧ 1 ≤ s.len ∧
      DeadlineWithin 35000 s := by
  simp only [PhaseHeld, hp]

/-! ### The deadline -/

/-- A deadline set `w` ticks ahead lies within any limit from `w` on. -/
theorem deadlineWithin_of_ahead {w : Word} {n : Nat} (hd : s.deadline = s.now + w) (hpos : 1 ≤ w.toNat)
    (hle : w.toNat ≤ n) : DeadlineWithin n s := by
  have hleft : s.deadline - s.now = w := by rw [hd, BitVec.add_comm, BitVec.add_sub_cancel]
  exact ⟨by rwa [hleft], by rwa [hleft]⟩

/-- A tick that does not reach the deadline leaves it at least one tick ahead (R105). -/
theorem deadlineWithin_advance {n : Nat} (h : DeadlineWithin n s) (hne : s.now + 1 ≠ s.deadline) :
    DeadlineWithin n { s with now := s.now + 1 } := by
  obtain ⟨hpos, hle⟩ := h
  simp only [DeadlineWithin]
  bv_omega

theorem widthUs_pos (w : PulseWidth) : 1 ≤ (widthUs w).toNat := by
  cases w <;> decide

/-! ### The operations of the sequencer keep the invariant -/

/-- A bit of the sequence that LEN counts is the bit that a slot start reads (R40). -/
theorem getElem?_eq_seqBit {k : Nat} (hs : SeqHeld s) (hk : k < s.len.toNat) : s.seq[k]? = some (seqBit s k) := by
  obtain ⟨hlen, -, -⟩ := hs
  rw [seqBit, List.getD_eq_getElem _ _ (hlen ▸ hk), List.getElem?_eq_getElem]

/-- A slot that starts at NOW, at a position in range, meets the invariant, whatever pin and deadline stood before
(R88). -/
theorem inv_emit (hs : SeqHeld s) (hp : s.phase = .bit) (hrep : s.rep < s.capReps) (hreplay : s.replay < 5)
    (hbit : s.bit < s.len) (hd : s.deadline = s.now) {k : Nat} (hk : s.bit.toNat = k) :
    Inv (emit (seqBit s k) s) := by
  subst hk
  have hdeadline : DeadlineWithin (widthUs s.capW).toNat (emit (seqBit s s.bit.toNat) s) :=
    deadlineWithin_of_ahead (by simp [hd]) (widthUs_pos _) le_rfl
  exact ⟨hs, (phaseHeld_of_bit (s := emit _ s) hp).2 ⟨hrep, hreplay, hbit, getElem?_eq_seqBit hs hbit, hdeadline⟩⟩

/-- The pin in the last slot of a frame is the last bit of the sequence, which is 0 (R102). -/
theorem pin_low_of_last_bit (hs : SeqHeld s) (hbit : s.bit < s.len) (hpin : s.seq[s.bit.toNat]? = some s.pin)
    (hlast : ¬s.bit + 1 < s.len) : s.pin = false := by
  obtain ⟨hlen, -, hlow⟩ := hs
  have hindex : s.seq.length - 1 = s.bit.toNat := by
    rw [hlen]
    bv_omega
  rw [List.getLast?_eq_getElem?, hindex, hpin] at hlow
  simpa using hlow

/-- The end of a slot, at its deadline, keeps the invariant (R98). -/
theorem slotEnd_keeps_inv (hi : Inv s) (hp : s.phase = .bit) (hd : s.now + 1 = s.deadline) :
    Inv (slotEnd { s with now := s.now + 1 }) := by
  obtain ⟨hs, hphase⟩ := hi
  obtain ⟨hrep, hreplay, hbit, hpin, -⟩ := (phaseHeld_of_bit hp).1 hphase
  obtain ⟨hnext, h⟩ | ⟨-, hmore, h⟩ | ⟨hlast, -, h⟩ := slotEnd_cases { s with now := s.now + 1 } <;> rw [h]
  · exact inv_emit (s := { s with now := s.now + 1, bit := s.bit + 1 }) hs hp hrep hreplay hnext hd.symm rfl
  · have hlen : 0 < s.len := by bv_omega
    exact inv_emit (s := { s with now := s.now + 1, bit := 0, replay := s.replay + 1 }) hs hp hrep hmore hlen hd.symm
      rfl
  · have hlen : 1 ≤ s.len := by bv_omega
    have hlow : s.pin = false := pin_low_of_last_bit hs hbit hpin hlast
    refine ⟨hs, (phaseHeld_of_gap rfl).2 ⟨hrep, rfl, rfl, hlow, hlen, ?_⟩⟩
    exact deadlineWithin_of_ahead (congrArg (· + 35000) hd.symm) (by decide) (by decide)

/-- The end of a gap, at its deadline, keeps the invariant (R99, R100). -/
theorem gapEnd_keeps_inv (hi : Inv s) (hp : s.phase = .gap) (hd : s.now + 1 = s.deadline) :
    Inv (gapEnd { s with now := s.now + 1 }) := by
  obtain ⟨hs, hphase⟩ := hi
  obtain ⟨-, hreplay, hbit, hpin, hlen, -⟩ := (phaseHeld_of_gap hp).1 hphase
  obtain ⟨hmore, h⟩ | ⟨-, h⟩ := gapEnd_cases { s with now := s.now + 1 } <;> rw [h]
  · have hfirst : s.replay < 5 := by simp [hreplay]
    have hheld : s.bit < s.len := by bv_omega
    exact inv_emit (s := { s with now := s.now + 1, rep := s.rep + 1, phase := .bit }) hs rfl hmore hfirst hheld hd.symm
      (by simp [hbit])
  · exact ⟨hs, (phaseHeld_of_idle rfl).2 ⟨rfl, rfl, rfl, hpin⟩⟩

/-- A tick that finds no deadline to end keeps the invariant (R97). -/
theorem waiting_keeps_inv (hi : Inv s) (hwait : s.phase = .idle ∨ s.now + 1 ≠ s.deadline) :
    Inv { s with now := s.now + 1 } := by
  obtain ⟨hs, hphase⟩ := hi
  refine ⟨hs, ?_⟩
  cases hp : s.phase with
  | idle => exact (phaseHeld_of_idle rfl).2 ((phaseHeld_of_idle hp).1 hphase)
  | bit =>
    obtain ⟨hrep, hreplay, hbit, hpin, hd⟩ := (phaseHeld_of_bit hp).1 hphase
    have hne := hwait.resolve_left (by simp [hp])
    exact (phaseHeld_of_bit rfl).2 ⟨hrep, hreplay, hbit, hpin, deadlineWithin_advance hd hne⟩
  | gap =>
    obtain ⟨hrep, hreplay, hbit, hpin, hlen, hd⟩ := (phaseHeld_of_gap hp).1 hphase
    have hne := hwait.resolve_left (by simp [hp])
    exact (phaseHeld_of_gap rfl).2 ⟨hrep, hreplay, hbit, hpin, hlen, deadlineWithin_advance hd hne⟩

theorem tick_keeps_inv (hi : Inv s) : Inv (tick s) := by
  obtain ⟨hwait, h⟩ | ⟨hp, hd, h⟩ | ⟨hp, hd, h⟩ := tick_cases s <;> rw [h]
  · exact waiting_keeps_inv hi hwait
  · exact slotEnd_keeps_inv hi hp hd
  · exact gapEnd_keeps_inv hi hp hd

/-! ### START and reset keep the invariant -/

/-- The capture of an encoded command fills the buffer with exactly LEN bits, within P_SEQ_MAX and so within the 16 bits
of LEN, and with a 0 at the end (R40, R90, K7). -/
theorem seqHeld_capture {e : Encoded} (he : EndsLowAndFits Config.params e.seq) (reps : BitVec 8) (s : State) :
    SeqHeld (capture e reps s) := by
  obtain ⟨hlow, hfits⟩ := he
  obtain ⟨-, -, -, hmax⟩ := legal_seq_max config_params_legal
  refine ⟨?_, hfits, by simp [hlow]⟩
  rw [capture_seq, capture_len, BitVec.toNat_ofNat, Nat.mod_eq_of_lt (by omega)]

/-- An accepted START on an idle block gives a state that meets the invariant (R90, R95). -/
theorem acceptStart_keeps_inv {e : Encoded} (he : EndsLowAndFits Config.params e.seq) (reps : BitVec 8) (hi : Inv s)
    (hidle : s.phase = .idle) : Inv (acceptStart e reps s) := by
  have hs := seqHeld_capture he reps s
  obtain ⟨-, hphase⟩ := hi
  have hrest := (phaseHeld_of_idle hidle).1 hphase
  obtain ⟨-, h⟩ | ⟨hreps, h⟩ := acceptStart_cases e reps s <;> rw [h]
  · exact ⟨hs, (phaseHeld_of_idle (s := { capture e reps s with done := true }) hidle).2 hrest⟩
  · have hrep : 0 < reps := by bv_omega
    have hlen : 0 < (capture e reps s).len := he.length_pos.trans_eq (show e.seq.length = _ from hs.1)
    exact inv_emit (s := { capture e reps s with rep := 0, replay := 0, bit := 0, phase := .bit, deadline := s.now })
      hs rfl hrep (show (0 : BitVec 3) < 5 by decide) hlen rfl rfl

/-- Every command keeps the invariant: a refusal does not touch the sequencer (R90, R94). -/
theorem exec_keeps_inv {i : Instr} (hi : Inv s) (h : exec i s = .next t) : Inv t := by
  obtain ⟨-, rfl⟩ | ⟨-, -, rfl⟩ | ⟨hidle, e, he, rfl⟩ := exec_next h
  · exact hi
  · exact hi
  · exact acceptStart_keeps_inv (encodeCommand_endsLowAndFits config_params_legal he) _ hi hidle

theorem inv_resetStep (s : State) : Inv (resetStep s) :=
  ⟨⟨rfl, Nat.zero_le _, by simp⟩, (phaseHeld_of_idle rfl).2 ⟨rfl, rfl, rfl, rfl⟩⟩

theorem accessState_keeps_inv (hi : Inv s) : Inv (accessState s) := by
  unfold accessState
  split
  · exact tick_keeps_inv hi
  · exact hi

end

/-! ### The statements of this family -/

/-- Settles O51: the tick and an accepted START are the only parts of a step that reach the sequencer, and each keeps
the invariant; a reset establishes it. -/
theorem everyStepKeepsTheInvariant : Obligations.EveryStepKeepsTheInvariant := by
  unfold Obligations.EveryStepKeepsTheInvariant
  intro s t hi h
  have haccess := accessState_keeps_inv hi
  obtain ⟨-, rfl⟩ | ⟨-, -, u, hexec, rfl⟩ | ⟨-, v, -, rfl⟩ | ⟨-, ht⟩ := step_effect h
  · exact inv_resetStep _
  · exact (exec_keeps_inv haccess hexec :)
  · exact haccess
  · rw [ht]
    exact haccess

/-- Settles O30: the tick advances NOW, and nothing that follows it in the cycle writes NOW. -/
theorem nowCountsTicks : Obligations.NowCountsTicks := by
  unfold Obligations.NowCountsTicks
  refine ⟨rfl, fun s t h => ?_⟩
  have hnow : (nextInput s).rst = false → t.now = (accessState s).now := fun hrst => by
    obtain ⟨hr, -⟩ | ⟨-, -, u, hexec, rfl⟩ | ⟨-, v, -, rfl⟩ | ⟨-, ht⟩ := step_effect h
    · simp [hrst] at hr
    · exact (exec_now hexec :)
    · rfl
    · rw [ht]
  rw [accessState_now] at hnow
  refine ⟨fun hrst => ?_, fun hrst htick => by simp [hnow hrst, htick], fun hrst htick => by simp [hnow hrst, htick]⟩
  obtain ⟨-, rfl⟩ | ⟨hr, -⟩ | ⟨hr, -⟩ | ⟨hr, -⟩ := step_effect h
  · rfl
  all_goals simp [hrst] at hr

/-- Settles O45: without the completing tick the block is still busy at the cycle's access, and no access ends a
transmission. -/
theorem transmissionsEndOnlyAtTheLastGapOrByReset : Obligations.TransmissionsEndOnlyAtTheLastGapOrByReset := by
  unfold Obligations.TransmissionsEndOnlyAtTheLastGapOrByReset
  intro s t h hbusy hidle
  by_contra hnot
  obtain ⟨hrst, hcomplete⟩ := not_or.1 hnot
  have hphase : (accessState s).phase ≠ .idle := mt (accessState_of_not_completing hcomplete).2.1 hbusy
  obtain ⟨hr, -⟩ | ⟨-, -, u, hexec, rfl⟩ | ⟨-, v, -, rfl⟩ | ⟨-, ht⟩ := step_effect h
  · exact hrst hr
  · exact hphase (exec_idle hexec hidle)
  · exact hphase hidle
  · rw [ht] at hidle
    exact hphase hidle

/-- Settles O47: without the completing tick DONE is still 0 at the cycle's access, and of the accesses only an accepted
START without repetitions sets it. -/
theorem doneRisesOnlyAtCompletion : Obligations.DoneRisesOnlyAtCompletion := by
  unfold Obligations.DoneRisesOnlyAtCompletion
  intro s t h hlow hhigh
  by_contra hnot
  obtain ⟨hcomplete, hstart⟩ := not_or.1 hnot
  have hdone : (accessState s).done = false := (accessState_of_not_completing hcomplete).1.trans hlow
  obtain ⟨-, rfl⟩ | ⟨-, hp, u, hexec, rfl⟩ | ⟨-, v, -, rfl⟩ | ⟨-, ht⟩ := step_effect h
  · cases hhigh
  · obtain ⟨hidle, ⟨e, he⟩, hreps⟩ := exec_done_rises hexec hdone hhigh
    refine hstart ⟨hp, fun h3 => ?_, by simpa using hreps, hidle⟩
    simp [encodeCommand_decodeFields_reserved h3] at he
  · simp [hdone] at hhigh
  · rw [ht, hdone] at hhigh
    cases hhigh

/-- Settles O48: the tick leaves ERR_BUSY alone, a command can only set it, and only a STATUS write clears it. -/
theorem errBusyIsStickyAndSetByBusyStarts : Obligations.ErrBusyIsStickyAndSetByBusyStarts := by
  unfold Obligations.ErrBusyIsStickyAndSetByBusyStarts
  intro s t h
  obtain ⟨hflag, -⟩ := accessState_flags s
  refine ⟨fun hp hbusy => ?_, fun hlow hhigh => ?_, fun hhigh hlow => ?_⟩
  · rw [step_of_presentsStart hp, exec_of_busy _ hbusy] at h
    injection h with h
    exact h.symm
  · obtain ⟨-, rfl⟩ | ⟨-, hp, u, hexec, rfl⟩ | ⟨-, v, -, rfl⟩ | ⟨-, ht⟩ := step_effect h
    · cases hhigh
    · exact ⟨hp, ((exec_errBusy hexec).1 hhigh).resolve_left (by simp [hflag, hlow])⟩
    · simp [hflag, hlow] at hhigh
    · rw [ht] at hhigh
      simp [hflag, hlow] at hhigh
  · obtain ⟨hr, -⟩ | ⟨-, -, u, hexec, rfl⟩ | ⟨-, v, hv, rfl⟩ | ⟨-, ht⟩ := step_effect h
    · exact .inl hr
    · have hset := (exec_errBusy hexec).2 (.inl (hflag.trans hhigh))
      simp [hset] at hlow
    · exact .inr ⟨v, hv, by simpa [hflag, hhigh] using hlow⟩
    · rw [ht] at hlow
      simp [hflag, hhigh] at hlow

/-- Settles O49: the tick leaves ERR_VARIANT alone, a command can only set it, and only a STATUS write clears it. -/
theorem errVariantIsStickyAndSetByReservedStarts : Obligations.ErrVariantIsStickyAndSetByReservedStarts := by
  unfold Obligations.ErrVariantIsStickyAndSetByReservedStarts
  intro s t h
  obtain ⟨-, hflag⟩ := accessState_flags s
  have hreserved := encodeCommand_decodeFields_eq_none_iff Config.params s.cmd s.ident
  refine ⟨fun hp hidle h3 => ?_, fun hlow hhigh => ?_, fun hhigh hlow => ?_⟩
  · rw [step_of_presentsStart hp, exec_of_no_encoding hidle (hreserved.2 h3)] at h
    injection h with h
    exact h.symm
  · obtain ⟨-, rfl⟩ | ⟨-, hp, u, hexec, rfl⟩ | ⟨-, v, -, rfl⟩ | ⟨-, ht⟩ := step_effect h
    · cases hhigh
    · obtain ⟨hidle, hnone⟩ := ((exec_errVariant hexec).1 hhigh).resolve_left (by simp [hflag, hlow])
      exact ⟨hp, hidle, hreserved.1 hnone⟩
    · simp [hflag, hlow] at hhigh
    · rw [ht] at hhigh
      simp [hflag, hlow] at hhigh
  · obtain ⟨hr, -⟩ | ⟨-, -, u, hexec, rfl⟩ | ⟨-, v, hv, rfl⟩ | ⟨-, ht⟩ := step_effect h
    · exact .inl hr
    · have hset := (exec_errVariant hexec).2 (.inl (hflag.trans hhigh))
      simp [hset] at hlow
    · exact .inr ⟨v, hv, by simpa [hflag, hhigh] using hlow⟩
    · rw [ht] at hlow
      simp [hflag, hhigh] at hlow

/-- Settles O29, register by register. -/
theorem resetStateHoldsTheResetValues : Obligations.ResetStateHoldsTheResetValues := by
  unfold Obligations.ResetStateHoldsTheResetValues
  refine ⟨fun r => ?_, rfl, rfl, rfl, rfl⟩
  cases r <;> rfl

/-- Settles O24: CMD's word decodes to CMD's fields, and the tick before the access writes neither CMD nor IDENT. -/
theorem stepRunsTheDecodedCommand : Obligations.StepRunsTheDecodedCommand := by
  unfold Obligations.StepRunsTheDecodedCommand
  intro s t i hp hi hexec
  have hfetch : decodeFields s.cmd s.ident = i := by rw [← hi, decode, cmdOfWord_wordOfCmd]
  rw [step_of_presentsStart hp, hfetch, hexec, respondWritten]

/-- Settles O37, by the bits of the CMD word. -/
theorem cmdReadsBackWithoutReservedBits : Obligations.CmdReadsBackWithoutReservedBits := by
  unfold Obligations.CmdReadsBackWithoutReservedBits
  intro v s t h
  injection h with h
  rw [← h]
  exact wordOfCmd_cmdOfWord v

/-- Settles O38, by the bits of the STATUS word. -/
theorem statusWriteClearsWrittenOnes : Obligations.StatusWriteClearsWrittenOnes := by
  unfold Obligations.StatusWriteClearsWrittenOnes
  intro v s t h
  injection h with h
  rw [← h]
  exact statusWord_clearStatus v s

end Sys2Proof.Machine

namespace Sys2Proof

/-! ### The register window -/

/-- The register window starts at a multiple of its 32 bytes (R8). -/
theorem legal_base_aligned {P : Params} (h : P.legal = true) : P.pBase.toNat % 32 = 0 := by
  simpa [Params.baseAligned] using ((legal_iff P).1 h).1

/-- The window of a legal parameter set does not wrap around the end of the address space (R8, R52). -/
theorem toNat_base_add_offset {P : Params} (h : P.legal = true) (off : BitVec 5) :
    (P.pBase + off.setWidth 32).toNat = P.pBase.toNat + off.toNat := by
  have haligned := legal_base_aligned h
  have hbase := P.pBase.isLt
  have hoff := off.isLt
  rw [BitVec.toNat_add, BitVec.toNat_setWidth]
  omega

/-- The map of the window knows each register's offset (R19, R45). -/
@[simp] theorem regAt_offset (r : Reg) : regAt r.offset = some r := by cases r <;> rfl

/-- The illegal offsets: the misaligned ones and 0x1C (R46). -/
theorem regAt_eq_none_iff (a : BitVec 5) : regAt a = none ↔ a.extractLsb' 0 2 ≠ 0 ∨ a = 0x1C := by
  revert a
  decide

/-- The legal offsets reach a register (R45). -/
theorem exists_regAt_iff (a : BitVec 5) : (∃ r, regAt a = some r) ↔ a.extractLsb' 0 2 = 0 ∧ a ≠ 0x1C := by
  rw [← Option.ne_none_iff_exists', ne_eq, regAt_eq_none_iff]
  tauto

end Sys2Proof

namespace Sys2Proof.Machine

/-! ### The registers' words as numbers -/

/-- The number of two fields side by side. -/
theorem toNat_append_eq_add {m n : Nat} (x : BitVec m) (y : BitVec n) :
    (x ++ y).toNat = x.toNat * 2 ^ n + y.toNat := by
  rw [BitVec.toNat_append, ← Nat.shiftLeft_add_eq_or_of_lt y.isLt, Nat.shiftLeft_eq]

/-- The value of STATUS, with BUSY and PHASE apart (R27, R28, R34). -/
theorem registerValue_status (s : State) : registerValue .status s =
    s.busy.toNat + 64 * (phaseCode s.phase).toNat + 2 * s.done.toNat + 4 * s.errBusy.toNat +
      8 * s.errVariant.toNat + 16 * s.oor.toNat + 32 * s.pin.toNat := by
  cases hp : s.phase <;> simp [registerValue, State.busy, phaseCode, hp]

/-- A read returns every field of the register in its place (R20, R27, R36, R37, R47). -/
theorem readReg_toNat (r : Reg) (s : State) : (readReg r s).toNat = registerValue r s := by
  cases r with
  | cmd =>
    simp only [readReg, wordOfCmd, toNat_append_eq_add, BitVec.toNat_ofBool, BitVec.toNat_ofNat, registerValue]
    omega
  | status =>
    rw [registerValue_status]
    simp only [readReg, statusWord, toNat_append_eq_add, BitVec.toNat_ofBool, BitVec.toNat_ofNat]
    omega
  | len =>
    rw [readReg, lenWord, toNat_append_eq_add]
    simp [registerValue]
  | pos =>
    simp only [readReg, posWord, toNat_append_eq_add, BitVec.toNat_ofNat, registerValue]
    omega
  | ident => rfl
  | ctrl => rfl
  | now => rfl

/-! ### The frame of a command -/

section
variable {s t : State} {i : Instr}

/-- START of every command answers a next state. -/
theorem exec_answers (i : Instr) (s : State) : ∃ t, exec i s = .next t := by
  cases i <;> exact ⟨_, rfl⟩

/-- A command leaves the host's registers, the bus outputs, the fault record and the agenda alone (R57, R90). -/
theorem exec_frame (h : exec i s = .next t) :
    t.cmd = s.cmd ∧ t.ident = s.ident ∧ t.busOut = s.busOut ∧ t.hostFaults = s.hostFaults ∧ t.agenda = s.agenda := by
  obtain ⟨-, rfl⟩ | ⟨-, -, rfl⟩ | ⟨-, e, -, rfl⟩ := exec_next h
  · simp
  · simp
  · obtain ⟨-, ht⟩ | ⟨-, ht⟩ := acceptStart_cases e (repsOf i) s <;> simp [ht]

/-- A command leaves the pin and the position alone, or starts the first slot of its transmission (R90, R101). -/
theorem exec_slot (h : exec i s = .next t) :
    (t.events = s.events ∧ t.pin = s.pin ∧ t.deadline = s.deadline ∧ t.phase = s.phase ∧ t.rep = s.rep ∧
      t.replay = s.replay ∧ t.bit = s.bit) ∨
    t.events = s.events ++ [⟨s.now, t.pin, 0, 0, 0⟩] := by
  obtain ⟨-, rfl⟩ | ⟨-, -, rfl⟩ | ⟨-, e, -, rfl⟩ := exec_next h
  · exact .inl (by simp)
  · exact .inl (by simp)
  · obtain ⟨-, ht⟩ | ⟨-, ht⟩ := acceptStart_cases e (repsOf i) s
    · exact .inl (by simp [ht])
    · exact .inr (by simp [ht])

/-- The reserved command is the one without an encoder (R71). -/
theorem encodeCommand_eq_none_iff (P : Params) (i : Instr) :
    encodeCommand P i = none ↔ mnemonic i = "(reserved)" := by
  cases i <;> simp [encodeCommand, mnemonic]

/-! ### What an access answers, by its offset -/

/-- An access to an illegal offset answers with the error response (R46). -/
theorem access_of_illegal {a : BitVec 5} (ha : regAt a = none) (w : Bool) (v : Word) (s : State) :
    access w a v s = .next (raiseBusError w a s) := by
  cases w <;> simp [access, memRead, memWrite, ha]

/-- A read of a register answers with its value (R47). -/
theorem access_read (r : Reg) (v : Word) (s : State) :
    access false r.offset v s = .next { s with busOut := some (.data (readReg r s)) } := by
  simp [access, memRead]

/-- A write of a register is the register's write with the response of a legal write (R44, R48). -/
theorem access_write (r : Reg) (v : Word) (s : State) :
    access true r.offset v s = respondWritten (writeReg r v s) := by
  simp [access, memWrite]

/-- A write of STATUS, flag by flag (R27). -/
theorem clearStatus_eq (v : Word) (s : State) : clearStatus v s = { s with
    done := s.done && !v.getLsbD 1
    errBusy := s.errBusy && !v.getLsbD 2
    errVariant := s.errVariant && !v.getLsbD 3 } := by
  have hclear (b f : Bool) : (if b then false else f) = (f && !b) := by cases b <;> simp
  simp only [clearStatus, hclear]

/-- A write of CTRL runs the command that the words of CMD and IDENT decode to, if its bit 0 is 1 (R60, R61). -/
theorem writeReg_ctrl (v : Word) (s : State) :
    writeReg .ctrl v s = if v.getLsbD 0 then exec (decode ⟨wordOfCmd s.cmd, s.ident⟩) s else .next s := by
  rw [decode, cmdOfWord_wordOfCmd]
  rfl

theorem writeReg_answers (r : Reg) (v : Word) (s : State) : ∃ t, writeReg r v s = .next t := by
  cases r with
  | ctrl =>
    rw [writeReg_ctrl]
    split
    · exact exec_answers _ _
    · exact ⟨_, rfl⟩
  | _ => exact ⟨_, rfl⟩

/-- Every access answers a next state (R44). -/
theorem access_answers (w : Bool) (a : BitVec 5) (v : Word) (s : State) : ∃ t, access w a v s = .next t := by
  cases ha : regAt a with
  | none => exact ⟨_, access_of_illegal ha w v s⟩
  | some r =>
    obtain rfl := eq_offset_of_regAt ha
    cases w with
    | false => exact ⟨_, access_read r v s⟩
    | true =>
      obtain ⟨t, ht⟩ := writeReg_answers r v s
      exact ⟨_, by rw [access_write, ht, respondWritten]⟩

/-- A write of a register records no fault and leaves the agenda alone (R46). -/
theorem writeReg_records {r : Reg} {v : Word} (h : writeReg r v s = .next t) :
    t.hostFaults = s.hostFaults ∧ t.agenda = s.agenda := by
  obtain ⟨-, rfl⟩ | ⟨-, rfl⟩ | ⟨-, -, hexec⟩ | ⟨-, -, rfl⟩ | ⟨-, rfl⟩ | ⟨-, rfl⟩ := writeReg_next h
  case inr.inr.inl =>
    obtain ⟨-, -, -, hfaults, hagenda⟩ := exec_frame hexec
    exact ⟨hfaults, hagenda⟩
  all_goals exact ⟨rfl, rfl⟩

/-! ### A transmission and the accesses during it -/

/-- While BUSY no write of a register reaches the sequencer or OOR: a START is refused (R57, R103). -/
theorem writeReg_of_busy {r : Reg} {v : Word} (hs : s.phase ≠ .idle) (h : writeReg r v s = .next t) :
    sequencerView t = sequencerView s ∧ t.oor = s.oor := by
  obtain ⟨-, rfl⟩ | ⟨-, rfl⟩ | ⟨-, -, hexec⟩ | ⟨-, -, rfl⟩ | ⟨-, rfl⟩ | ⟨-, rfl⟩ := writeReg_next h
  case inr.inr.inl =>
    rw [exec_of_busy _ hs] at hexec
    injection hexec with ht
    rw [← ht]
    exact ⟨rfl, rfl⟩
  all_goals exact ⟨rfl, rfl⟩

/-- While BUSY no access reaches the sequencer, OOR or the agenda (R57, R103, R111). -/
theorem access_of_busy {w : Bool} {a : BitVec 5} {v : Word} (hs : s.phase ≠ .idle)
    (h : access w a v s = .next t) :
    sequencerView t = sequencerView s ∧ t.oor = s.oor ∧ t.agenda = s.agenda := by
  obtain ⟨-, rfl⟩ | ⟨-, r, -, rfl⟩ | ⟨-, r, u, -, hu, rfl⟩ := access_next h
  · exact ⟨rfl, rfl, rfl⟩
  · exact ⟨rfl, rfl, rfl⟩
  · obtain ⟨hview, hoor⟩ := writeReg_of_busy hs hu
    exact ⟨hview, hoor, (writeReg_records hu).2⟩

/-- Ticks read and write the sequencer's view alone. -/
theorem sequencerView_ticks {u : State} (h : sequencerView s = sequencerView u) (n : Nat) :
    sequencerView (ticks n s) = sequencerView (ticks n u) :=
  ticks_extends (old := []) n h

theorem ticks_add (n m : Nat) (s : State) : ticks (n + m) s = ticks n (ticks m s) := by
  induction m generalizing s with
  | zero => rfl
  | succ m ih => exact ih (tick s)

theorem tickCount_cons (c : ClkInput) (cs : List ClkInput) : tickCount (c :: cs) = tickCount cs + c.usTick.toNat := by
  cases h : c.usTick <;> simp [tickCount, h]

/-- The access of a cycle meets the sequencer as the cycle's tick, if it has one, leaves it (R15). -/
theorem sequencerView_afterTick (c : ClkInput) (s : State) :
    sequencerView (afterTick c s) = sequencerView (ticks c.usTick.toNat s) := by
  unfold afterTick
  cases c.usTick with
  | false => rfl
  | true => exact sequencerView_ticks (s := { s with busOut := none }) (u := s) rfl 1

/-- A cycle without reset that leaves the block BUSY at its access is its tick alone to the sequencer (R15, R103). -/
theorem clkCycle_of_busy {c : ClkInput} (hrst : c.rst = false) (hbusy : (ticks c.usTick.toNat s).phase ≠ .idle) :
    ∃ t, clkCycle c s = .next t ∧ sequencerView t = sequencerView (ticks c.usTick.toNat s) := by
  have hview := sequencerView_afterTick c s
  have hphase : (afterTick c s).phase = (ticks c.usTick.toNat s).phase := congrArg SequencerView.phase hview
  cases hsel : c.busSel with
  | false => exact ⟨afterTick c s, by simp [clkCycle, hrst, hsel, afterTick], hview⟩
  | true =>
    obtain ⟨t, ht⟩ := access_answers c.busWr c.busAddr c.busWdata (afterTick c s)
    obtain ⟨hsame, -⟩ := access_of_busy (hphase ▸ hbusy) ht
    exact ⟨t, by simpa [clkCycle, hrst, hsel, afterTick] using ht, hsame.trans hview⟩

end

/-! ### The statements about the register bus -/

/-- Settles O57, by induction on the cycles: each one is its tick alone to the sequencer, and the ticks that follow see
nothing else. -/
theorem hostActivityNeverReachesTheSequencer : Obligations.HostActivityNeverReachesTheSequencer := by
  unfold Obligations.HostActivityNeverReachesTheSequencer
  intro cs s hrst hbusy
  induction cs generalizing s with
  | nil => exact ⟨s, rfl, rfl⟩
  | cons c cs ih =>
    obtain ⟨hc, hcs⟩ := List.forall_mem_cons.1 hrst
    rw [tickCount_cons] at hbusy ⊢
    obtain ⟨u, hu, hview⟩ := clkCycle_of_busy hc (hbusy _ (Nat.le_add_left _ _))
    have hticks (k : Nat) : sequencerView (ticks k u) = sequencerView (ticks (k + c.usTick.toNat) s) := by
      rw [ticks_add]
      exact sequencerView_ticks hview k
    obtain ⟨t, ht, hlast⟩ := ih u hcs fun k hk => by
      rw [show (ticks k u).phase = _ from congrArg SequencerView.phase (hticks k)]
      exact hbusy _ (Nat.add_le_add_right hk _)
    exact ⟨t, by rw [runCycles, hu]; exact ht, hlast.trans (hticks _)⟩

/-- Settles O44: every access answers, and a START while BUSY is refused. -/
theorem accessesCannotDisturbATransmission : Obligations.AccessesCannotDisturbATransmission := by
  unfold Obligations.AccessesCannotDisturbATransmission
  intro write addr v s hs
  obtain ⟨t, ht⟩ := access_answers write addr v s
  exact ⟨t, ht, access_of_busy hs ht⟩

/-- Settles O23, from the frame of a command, its flags and its first slot. -/
theorem startLeavesEverythingElseAlone : Obligations.StartLeavesEverythingElseAlone := by
  unfold Obligations.StartLeavesEverythingElseAlone
  intro i s t h
  obtain ⟨hcmd, hident, hbus, hfaults, hagenda⟩ := exec_frame h
  refine ⟨hcmd, hident, exec_now h, hbus, hfaults, hagenda, fun hidle => ?_, fun hi => ?_, exec_slot h⟩
  · exact Bool.eq_iff_iff.2 ((exec_errBusy h).trans (by simp [hidle]))
  · have hsome : encodeCommand Config.params i ≠ none := mt (encodeCommand_eq_none_iff _ i).1 hi
    exact Bool.eq_iff_iff.2 ((exec_errVariant h).trans (by simp [hsome]))

/-- Settles O34: the illegal offsets are those that reach no register; a legal access is a read or a register's write,
and neither records a fault. -/
theorem illegalAccessesAnswerWithBusError : Obligations.IllegalAccessesAnswerWithBusError := by
  unfold Obligations.IllegalAccessesAnswerWithBusError
  refine fun write addr v s => ⟨fun hillegal => ?_, fun hlegal => ?_⟩
  · exact ⟨_, access_of_illegal ((regAt_eq_none_iff addr).2 hillegal) write v s⟩
  · obtain ⟨r, hr⟩ := (exists_regAt_iff addr).2 hlegal
    obtain ⟨t, ht⟩ := access_answers write addr v s
    refine ⟨t, ht, ?_⟩
    obtain ⟨hnone, -⟩ | ⟨-, r, -, rfl⟩ | ⟨-, r, u, -, hu, rfl⟩ := access_next ht
    · simp [hr] at hnone
    · exact ⟨rfl, .inr ⟨_, rfl⟩⟩
    · exact ⟨(writeReg_records hu).1, .inl rfl⟩

/-- Settles O35, field by field of the register's word. -/
theorem readsReturnTheRegisterAndChangeNothing : Obligations.ReadsReturnTheRegisterAndChangeNothing := by
  unfold Obligations.ReadsReturnTheRegisterAndChangeNothing
  refine ⟨fun r v s => ⟨_, readReg_toNat r s, access_read r v s⟩, fun addr v s hillegal => ?_⟩
  exact ⟨_, access_of_illegal ((regAt_eq_none_iff addr).2 hillegal) false v s, rfl⟩

/-- Settles O39: the window of a legal set does not wrap, so an offset is the distance from the base. -/
theorem windowAddressesAreOffsets : Obligations.WindowAddressesAreOffsets := by
  unfold Obligations.WindowAddressesAreOffsets
  refine fun P hP => ⟨fun off => ?_, fun addr hout => if_neg (by omega)⟩
  have hoff := off.isLt
  rw [windowOffset, toNat_base_add_offset hP, if_pos (by omega), Nat.add_sub_cancel_left, BitVec.ofNat_toNat,
    BitVec.setWidth_eq]

/-- Settles O33, by the map of the window. -/
theorem legalOffsetsReachTheirRegisters : Obligations.LegalOffsetsReachTheirRegisters := by
  unfold Obligations.LegalOffsetsReachTheirRegisters
  refine ⟨fun addr => ?_, rfl, rfl, rfl, rfl, rfl, rfl, rfl, regAt_offset⟩
  rw [Option.isSome_iff_exists]
  exact exists_regAt_iff addr

/-- Settles O36, register by register. -/
theorem writesActByOffset : Obligations.WritesActByOffset := by
  unfold Obligations.WritesActByOffset
  intro v s
  refine ⟨access_write .cmd v s, access_write .ident v s, fun hv => ?_, fun hv t ht => ?_, ?_, access_write .now v s,
    access_write .len v s, access_write .pos v s⟩
  · have hwrite : writeReg .ctrl v s = .next s := by rw [writeReg_ctrl, hv]; rfl
    exact (access_write .ctrl v s).trans (congrArg respondWritten hwrite)
  · have hwrite : writeReg .ctrl v s = .next t := by rw [writeReg_ctrl, if_pos hv, ht]
    exact (access_write .ctrl v s).trans (congrArg respondWritten hwrite)
  · have hwrite : writeReg .status v s = .next (clearStatus v s) := rfl
    rw [clearStatus_eq] at hwrite
    exact (access_write .status v s).trans (congrArg respondWritten hwrite)

end Sys2Proof.Machine

namespace Sys2Proof

/-! ### Commands and their words -/

/-- The opcode map undoes the fields and the IDENT word of a command (R63). -/
theorem decodeFields_fieldsOf (i : Instr) : decodeFields (fieldsOf i) (identOf i) = i := by
  cases i <;> rfl

/-- The fields of CMD stay in the command that they select (R63). -/
theorem fieldsOf_decodeFields (c : CmdReg) (ident : Word) : fieldsOf (decodeFields c ident) = c := by
  obtain ⟨variant, act, unit, reps⟩ := c
  have hvalues : variant = 0 ∨ variant = 1 ∨ variant = 2 ∨ variant = 3 := by
    revert variant
    decide
  obtain rfl | rfl | rfl | rfl := hvalues <;> rfl

/-- The IDENT word stays in the command whatever CMD selects (R63). -/
theorem identOf_decodeFields (c : CmdReg) (ident : Word) : identOf (decodeFields c ident) = ident := by
  unfold decodeFields
  split_ifs <;> rfl

/-- The bits of a CMD word that a field holds: bits 15:0 but bit 3 (R20, R60). -/
theorem fieldMask_getLsbD {k : Nat} (hk : k < 32) :
    (0x0000FFF7 : Word).getLsbD k = decide (k < 16 ∧ k ≠ 3) := by
  revert k
  decide

/-- A CMD word in canonical form has no bit outside the fields (R60). -/
theorem and_fieldMask_of_canonical {w : CommandWords} (h : w.canonical = true) : w.cmd &&& 0x0000FFF7 = w.cmd := by
  simp only [CommandWords.canonical, CommandWords.bit3Zero, CommandWords.highZero, Bool.and_eq_true,
    Bool.not_eq_true', decide_eq_true_eq] at h
  obtain ⟨h3, hhigh⟩ := h
  refine BitVec.eq_of_getLsbD_eq fun k hk => ?_
  rw [BitVec.getLsbD_and, fieldMask_getLsbD hk]
  by_cases hfield : k < 16 ∧ k ≠ 3
  · simp [hfield]
  · have hzero : w.cmd.getLsbD k = false := by
      by_cases hk3 : k = 3
      · rw [hk3, h3]
      · have hpow : 2 ^ 16 ≤ 2 ^ k := Nat.pow_le_pow_right (by decide) (by omega)
        exact Nat.testBit_lt_two_pow (hhigh.trans_le hpow)
    rw [hzero, Bool.false_and]

/-- The fields of CMD are those of the word without its reserved bits (R60, R64). -/
theorem cmdOfWord_and_fieldMask (v : Word) : cmdOfWord (v &&& 0x0000FFF7) = cmdOfWord v := by
  rw [← Machine.wordOfCmd_cmdOfWord, Machine.cmdOfWord_wordOfCmd]

/-- Words that agree on the bits of the fields are one word without the reserved bits (R64). -/
theorem and_fieldMask_congr {v v' : Word} (h : ∀ k, k < 16 → k ≠ 3 → v.getLsbD k = v'.getLsbD k) :
    v &&& 0x0000FFF7 = v' &&& 0x0000FFF7 := by
  refine BitVec.eq_of_getLsbD_eq fun k hk => ?_
  rw [BitVec.getLsbD_and, BitVec.getLsbD_and, fieldMask_getLsbD hk]
  by_cases hfield : k < 16 ∧ k ≠ 3
  · rw [h k hfield.1 hfield.2]
  · simp only [hfield, decide_false, Bool.and_false]

/-- The bits that the masks of the opcode table keep are the field VARIANT (R60, R63). -/
theorem and_three_eq_variant (v : Word) : v &&& 3 = (cmdOfWord v).variant.setWidth 32 := by
  refine BitVec.eq_of_getLsbD_eq fun k hk => ?_
  interval_cases k <;> simp [cmdOfWord]

/-- The mnemonic that VARIANT selects (R63). -/
theorem mnemonic_decodeFields (c : CmdReg) (ident : Word) : mnemonic (decodeFields c ident) =
    if c.variant = 0b00#2 then "TX.LRN" else if c.variant = 0b01#2 then "TX.SMP"
    else if c.variant = 0b10#2 then "TX.HLE" else "(reserved)" := by
  unfold decodeFields
  split_ifs <;> rfl

/-- Settles O1: the fields come back from the CMD word, and the opcode map undoes them. -/
theorem decodeOfEncodeIsTheCommand : Obligations.DecodeOfEncodeIsTheCommand := by
  unfold Obligations.DecodeOfEncodeIsTheCommand
  intro i
  rw [decode, encode, Machine.cmdOfWord_wordOfCmd, decodeFields_fieldsOf]

/-- Settles O2: the fields written back keep every bit but the reserved ones, which are 0. -/
theorem encodeOfDecodeIsTheCanonicalPair : Obligations.EncodeOfDecodeIsTheCanonicalPair := by
  unfold Obligations.EncodeOfDecodeIsTheCanonicalPair
  intro w hw
  rw [encode, decode, fieldsOf_decodeFields, identOf_decodeFields, Machine.wordOfCmd_cmdOfWord,
    and_fieldMask_of_canonical hw]

/-- Settles O3: the decoder reads the word without its reserved bits. -/
theorem reservedCmdBitsNeverChangeTheCommand : Obligations.ReservedCmdBitsNeverChangeTheCommand := by
  unfold Obligations.ReservedCmdBitsNeverChangeTheCommand
  intro v v' ident hagree
  have hfields : cmdOfWord v = cmdOfWord v' := by
    rw [← cmdOfWord_and_fieldMask v, and_fieldMask_congr hagree, cmdOfWord_and_fieldMask]
  exact congrArg (decodeFields · ident) hfields

/-- Settles O4: the mask of a row keeps VARIANT, and VARIANT selects the mnemonic. -/
theorem opcodeRowsSelectTheDecodedCommand : Obligations.OpcodeRowsSelectTheDecodedCommand := by
  unfold Obligations.OpcodeRowsSelectTheDecodedCommand
  intro w r hr
  have hmask : r.mask = 3 := by
    revert r
    decide
  rw [OpcodeRow.hits, hmask, and_three_eq_variant, decode, mnemonic_decodeFields]
  generalize (cmdOfWord w.cmd).variant = variant
  revert variant r
  decide

/-- Settles O5: closed words, each decoded. -/
theorem writtenOutWordsDecode : Obligations.WrittenOutWordsDecode := by
  unfold Obligations.WrittenOutWordsDecode
  decide

end Sys2Proof

namespace Sys2Proof.Machine

/-! ### What the host's statements present -/

/-- The number that a CMD word stands for, field by field (R20). -/
theorem wordOfCmd_toNat (c : CmdReg) :
    (wordOfCmd c).toNat = c.variant.toNat + 4 * c.act.toNat + 16 * c.unit.toNat + 256 * c.reps.toNat :=
  readReg_toNat .cmd { State.reset with cmd := c }

/-- The fields of the word of R68 do not run into one another when they fit, so the word is their sum. -/
theorem macroWord_toNat {n u v : Nat} (hn : n < 256) (hu : u < 16) (hv : v < 4) (a : Bool) :
    (macroWord n u a v).toNat = v + 4 * a.toNat + 16 * u + 256 * n := by
  have ha := a.toNat_lt
  have hact : a.toNat <<< 2 ||| v = a.toNat <<< 2 + v := (Nat.shiftLeft_add_eq_or_of_lt hv _).symm
  have hunit : u <<< 4 ||| (a.toNat <<< 2 + v) = u <<< 4 + (a.toNat <<< 2 + v) :=
    (Nat.shiftLeft_add_eq_or_of_lt (by omega) _).symm
  have hreps : n <<< 8 ||| (u <<< 4 + (a.toNat <<< 2 + v)) = n <<< 8 + (u <<< 4 + (a.toNat <<< 2 + v)) :=
    (Nat.shiftLeft_add_eq_or_of_lt (by omega) _).symm
  rw [macroWord, ← BitVec.ofNat_or, ← BitVec.ofNat_or, ← BitVec.ofNat_or, Nat.or_assoc, Nat.or_assoc, hact, hunit,
    hreps, BitVec.toNat_ofNat]
  omega

/-- The word that a pseudo-instruction writes to CMD is that of its fields (R60, R68). -/
theorem macroWord_eq_wordOfCmd {n u v : Nat} (hn : n < 256) (hu : u < 16) (hv : v < 4) (a : Bool) :
    macroWord n u a v = wordOfCmd ⟨BitVec.ofNat 2 v, a, BitVec.ofNat 4 u, BitVec.ofNat 8 n⟩ := by
  refine BitVec.eq_of_toNat_eq ?_
  rw [macroWord_toNat hn hu hv, wordOfCmd_toNat]
  simp [Nat.mod_eq_of_lt, hn, hu, hv]

/-- Settles O6: the CMD word of each pseudo-instruction is that of its command's fields, and their sum. -/
theorem pseudoInstructionsWriteTheEncodedWord : Obligations.PseudoInstructionsWriteTheEncodedWord := by
  unfold Obligations.PseudoInstructionsWriteTheEncodedWord
  refine ⟨fun ident u n a hu hn => ?_, rfl, fun mask => rfl⟩
  intro write lrn smp hle
  have hlrn : macroWord n u a 0 = lrn := macroWord_eq_wordOfCmd hn hu (by decide) a
  have hsmp : macroWord n 0 a 1 = smp := macroWord_eq_wordOfCmd hn (by decide) (by decide) a
  have hhle : macroWord n 0 a 2 = hle := macroWord_eq_wordOfCmd hn (by decide) (by decide) a
  refine ⟨congrArg (txActions ident) hlrn, congrArg (txActions ident) hsmp, congrArg (txActions ident) hhle,
    ?_, ?_, ?_⟩
  · rw [← hlrn, macroWord_toNat hn hu (by decide)]
    omega
  · rw [← hsmp, macroWord_toNat hn (by decide) (by decide)]
    omega
  · rw [← hhle, macroWord_toNat hn (by decide) (by decide)]
    omega

/-- Settles O58: each statement's list of cycles, as written. -/
theorem hostStatementsPresentTheirCycles : Obligations.HostStatementsPresentTheirCycles := by
  unfold Obligations.HostStatementsPresentTheirCycles
  exact fun addr v mask n => ⟨rfl, ⟨0, rfl⟩, rfl, rfl, resetCycle, rfl, rfl⟩

/-! ### The bits of the operands that a variant uses -/

/-- The Learning digits are bits 25:0 of the identity (R62, R72). -/
theorem identityDigits_congr {ident ident' : Word} (h : ∀ k, k < 26 → ident.getLsbD k = ident'.getLsbD k) :
    identityDigits ident = identityDigits ident' :=
  List.map_congr_left fun i _ => h (25 - i) (by omega)

/-- The two nibbles are bits 7:0 of the identity (R62, R78, R81). -/
theorem nibbles_congr {ident ident' : Word} (h : ∀ k, k < 8 → ident.getLsbD k = ident'.getLsbD k) :
    house ident = house ident' ∧ unitNibble ident = unitNibble ident' := by
  have hbits (n : Nat) (hn : n ≤ 4) : ident.extractLsb' n 4 = ident'.extractLsb' n 4 := by
    refine BitVec.eq_of_getLsbD_eq fun k hk => ?_
    rw [BitVec.getLsbD_extractLsb', BitVec.getLsbD_extractLsb', h (n + k) (by omega)]
  exact ⟨hbits 4 (by decide), hbits 0 (by decide)⟩

/-- The Learning encoder reads the identity by its digits alone (R74, R75). -/
theorem encodeLearning_congr {ident ident' : Word} (h : identityDigits ident = identityDigits ident') (P : Params)
    (unit : BitVec 4) (act : Bool) : encodeLearning P ident unit act = encodeLearning P ident' unit act := by
  simp only [encodeLearning, lrnPacket, h]

/-- The Simple encoder reads the identity by its nibbles alone (R79, R80). -/
theorem encodeSimple_congr {ident ident' : Word} (hhouse : house ident = house ident')
    (hunit : unitNibble ident = unitNibble ident') (P : Params) (act : Bool) :
    encodeSimple P ident act = encodeSimple P ident' act := by
  simp only [encodeSimple, smpPacket, smpOor, hhouse, hunit]

/-- The HellE encoder reads the identity by its nibbles alone (R82, R83). -/
theorem encodeHellE_congr {ident ident' : Word} (hhouse : house ident = house ident')
    (hunit : unitNibble ident = unitNibble ident') (P : Params) (act : Bool) :
    encodeHellE P ident act = encodeHellE P ident' act := by
  simp only [encodeHellE, hlePacket, hleOor, hhouse, hunit]

/-- What START does with a command, from what the encoder answers (R71, R90). -/
theorem exec_eq_next (i : Instr) (s : State) :
    exec i s = .next ((encodeCommand Config.params i).elim (startReserved s) (start · (repsOf i) s)) := by
  cases i <;> rfl

/-- START depends on a command by its encoding and its repetition count alone (R71, R90). -/
theorem exec_congr {i j : Instr} (hencode : encodeCommand Config.params i = encodeCommand Config.params j)
    (hreps : repsOf i = repsOf j) (s : State) : exec i s = exec j s := by
  rw [exec_eq_next, exec_eq_next, hencode, hreps]

/-- Settles O11: the encoders read the identity digits, or the two nibbles and no unit. -/
theorem unusedOperandBitsHaveNoEffect : Obligations.UnusedOperandBitsHaveNoEffect := by
  unfold Obligations.UnusedOperandBitsHaveNoEffect
  intro ident ident' unit unit' act reps s
  refine ⟨fun h => exec_congr ?_ (by rfl) s, fun h => ?_⟩
  · exact congrArg some (encodeLearning_congr (identityDigits_congr h) _ unit act)
  · obtain ⟨hhouse, hunit⟩ := nibbles_congr h
    refine ⟨exec_congr ?_ (by rfl) s, exec_congr ?_ (by rfl) s⟩
    · exact congrArg some (encodeSimple_congr hhouse hunit _ act)
    · exact congrArg some (encodeHellE_congr hhouse hunit _ act)

/-! ### The step of a brought-up word and of a `WAIT` loop -/

/-- A numbered table word that decodes at all decodes as its two words (R60). -/
theorem decode_of_decodeTableWord {nbits w : Nat} {i : Instr} (h : decodeTableWord nbits w = some i) :
    decode (tableWords nbits w) = i := by
  unfold decodeTableWord decodeNumbered at h
  split_ifs at h
  exact Option.some.inj h

/-- Settles O25: the cycle after the bring-up presents a START, without a tick. -/
theorem stepRunsTheBroughtUpWord : Obligations.StepRunsTheBroughtUpWord := by
  unfold Obligations.StepRunsTheBroughtUpWord
  intro s t nbits w i hi hexec
  have hstart : presentsStart (nextInput (s.withFetchWord nbits w)) := ⟨1, ⟨rfl, rfl, rfl, rfl, rfl⟩, rfl⟩
  have hfetch : decodeFields (cmdOfWord (tableWords nbits w).cmd) (tableWords nbits w).ident = i :=
    decode_of_decodeTableWord hi
  calc step (s.withFetchWord nbits w)
    _ = respondWritten (exec (decodeFields (cmdOfWord (tableWords nbits w).cmd) (tableWords nbits w).ident)
          (accessState (s.withFetchWord nbits w))) := step_of_presentsStart hstart
    _ = respondWritten (exec i (accessState (s.withFetchWord nbits w))) := by rw [hfetch]
    _ = respondWritten (.next t) := congrArg respondWritten hexec
    _ = .next { t with busOut := some .written } := rfl

/-- A read's value is that of the register at its offset (R47). -/
theorem readValue_offset (r : Reg) (s : State) : readValue r.offset s = readReg r s := by
  simp [readValue]

/-- Settles O32: the cycle of a loop is a read, and the loop goes on if the value read does not match. -/
theorem waitReadsAndLoops : Obligations.WaitReadsAndLoops := by
  unfold Obligations.WaitReadsAndLoops
  intro s r mask value rest hs
  have hinput : nextInput s = readCycle r.offset := by simp only [nextInput, hs]
  have hagenda : nextAgenda s = if readReg r s &&& mask = value then rest
      else .cycle tickCycle :: .wait r.offset mask value :: rest := by
    simp only [nextAgenda, hs, readValue_offset]
  rw [step_eq, hinput, hagenda]
  exact access_read r 0 _

end Sys2Proof.Machine

namespace Sys2Proof.Machine

/-! ### The bits of a Learning sequence -/

/-- The model's expansion of a Learning digit is the one the statements write out (R69). -/
theorem expL_digit (b : Bool) : expL (.digit b) = learningDigitBits b := by cases b <;> rfl

theorem learningDigitBits_length (b : Bool) : (learningDigitBits b).length = 8 := by cases b <;> rfl

theorem learningDigitBits_injective : Function.Injective learningDigitBits := by decide

/-- The digits of a Learning packet, from the identity to the unit (R74). -/
def lrnDigits (P : Params) (ident : Word) (unit : BitVec 4) (act : Bool) : List Bool :=
  identityDigits ident ++ [P.lrnGroup, !act, P.lrnTail1, P.lrnTail0] ++ lrnUnitDigits unit

/-- A Learning sequence is the start symbol, its digits' bits and the stop symbol (R69, R74, R75). -/
theorem encodeLearning_seq (P : Params) (ident : Word) (unit : BitVec 4) (act : Bool) :
    (encodeLearning P ident unit act).seq =
      lrnStartBits ++ (lrnDigits P ident unit act).flatMap learningDigitBits ++ lrnStopBits := by
  have hact : lrnActDigit act = !act := by cases act <;> rfl
  simp [encodeLearning, lrnPacket, lrnDigits, hact, List.flatMap_map, List.flatMap_append, expL_digit,
    show expL .start = lrnStartBits from rfl, show expL .stop = lrnStopBits from rfl]

theorem flatMap_learningDigitBits_length (ds : List Bool) : (ds.flatMap learningDigitBits).length = 8 * ds.length := by
  induction ds with
  | nil => rfl
  | cons d ds ih => simp [ih, learningDigitBits_length]; omega

/-- The group of digit `i` begins 8 `i` bits after the first one, whatever follows the digits. -/
theorem take_drop_flatMap_learningDigitBits {ds : List Bool} {i : Nat} {b : Bool} (h : ds[i]? = some b) (rest : Bits) :
    ((ds.flatMap learningDigitBits ++ rest).drop (8 * i)).take 8 = learningDigitBits b := by
  induction ds generalizing i with
  | nil => simp at h
  | cons d ds ih =>
    have hd := learningDigitBits_length d
    rw [List.flatMap_cons, List.append_assoc]
    cases i with
    | zero =>
      obtain rfl : d = b := by simpa using h
      rw [Nat.mul_zero, List.drop_zero, ← hd, List.take_left]
    | succ i =>
      rw [Nat.mul_succ, Nat.add_comm, ← List.drop_drop, ← hd, List.drop_left, hd]
      exact ih (by simpa using h)

section
variable (P : Params) (ident : Word) (unit : BitVec 4) (act : Bool)

/-- Digit `i` of a Learning sequence stands after the start symbol and `i` digits of 8 bits (R69). -/
theorem encodeLearning_digit_at {i : Nat} {b : Bool} (h : (lrnDigits P ident unit act)[i]? = some b) :
    ((encodeLearning P ident unit act).seq.drop (11 + 8 * i)).take 8 = learningDigitBits b := by
  rw [encodeLearning_seq, List.append_assoc, ← List.drop_drop, show 11 = lrnStartBits.length from rfl, List.drop_left]
  exact take_drop_flatMap_learningDigitBits h _

/-- After the digits comes the stop symbol and nothing else (R74). -/
theorem encodeLearning_stop_at :
    (encodeLearning P ident unit act).seq.drop (11 + 8 * (lrnDigits P ident unit act).length) = lrnStopBits := by
  rw [encodeLearning_seq, ← flatMap_learningDigitBits_length, show 11 = lrnStartBits.length from rfl,
    ← List.length_append, List.drop_left]

/-- The first 26 digits are the identity's, bit 25 first (R72). -/
theorem lrnDigits_identity {i : Nat} (hi : i < 26) :
    (lrnDigits P ident unit act)[i]? = some (ident.getLsbD (25 - i)) := by
  rw [lrnDigits, List.append_assoc, List.getElem?_append_left (by simpa using hi), identityDigits, List.getElem?_map,
    List.getElem?_range hi, Option.map_some]

/-- From digit 26 on come the group separator, the activation, the tail and the unit (R74). -/
theorem lrnDigits_after_identity (j : Nat) : (lrnDigits P ident unit act)[26 + j]? =
    (P.lrnGroup :: (!act) :: P.lrnTail1 :: P.lrnTail0 :: lrnUnitDigits unit)[j]? := by
  rw [lrnDigits, List.append_assoc, List.getElem?_append_right (by simp), identityDigits_length, Nat.add_sub_cancel_left]
  rfl

theorem lrnDigits_length : (lrnDigits P ident unit act).length = 30 + (lrnUnitDigits unit).length := by
  rw [lrnDigits, List.length_append, List.length_append, identityDigits_length, List.length_cons, List.length_cons,
    List.length_cons, List.length_singleton]

theorem encodeLearning_length :
    (encodeLearning P ident unit act).seq.length = 294 + 8 * (lrnUnitDigits unit).length := by
  rw [encodeLearning_seq, List.length_append, List.length_append, flatMap_learningDigitBits_length, lrnDigits_length,
    show lrnStartBits.length = 11 from rfl, show lrnStopBits.length = 43 from rfl]
  omega

end

/-! ### The Learning unit selector -/

/-- A unit from 1 to 4 has the two binary digits of 4 minus the unit (R73). -/
theorem lrnUnitDigits_of_in_table {unit : BitVec 4} (h : 1 ≤ unit.toNat ∧ unit.toNat ≤ 4) :
    lrnUnitDigits unit = [(4 - unit.toNat).testBit 1, (4 - unit.toNat).testBit 0] := by
  revert unit
  decide

/-- A unit outside 1 to 4 has no digits (R73). -/
theorem lrnUnitDigits_of_out_of_table {unit : BitVec 4} (h : ¬(1 ≤ unit.toNat ∧ unit.toNat ≤ 4)) :
    lrnUnitDigits unit = [] := by
  revert unit
  decide

/-- In the table, the two digits determine the unit (R73). -/
theorem lrnUnit_eq_of_digits_eq {unit unit' : BitVec 4} (h : 1 ≤ unit.toNat ∧ unit.toNat ≤ 4)
    (h' : 1 ≤ unit'.toNat ∧ unit'.toNat ≤ 4) (hd : lrnUnitDigits unit = lrnUnitDigits unit') : unit = unit' := by
  revert unit unit'
  decide

theorem lrnOor_iff (unit : BitVec 4) : lrnOor unit = true ↔ unit.toNat < 1 ∨ 4 < unit.toNat := by simp [lrnOor]

/-- Settles O7: each group is the digit of its index, and the digits of the unit come last. -/
theorem learningSequenceLayout : Obligations.LearningSequenceLayout := by
  unfold Obligations.LearningSequenceLayout
  intro P ident unit act q
  have digitAt (j : Nat) {b : Bool}
      (h : (P.lrnGroup :: (!act) :: P.lrnTail1 :: P.lrnTail0 :: lrnUnitDigits unit)[j]? = some b) :
      (q.drop (11 + 8 * (26 + j))).take 8 = learningDigitBits b :=
    encodeLearning_digit_at P ident unit act ((lrnDigits_after_identity P ident unit act j).trans h)
  have stopAt := encodeLearning_stop_at P ident unit act
  rw [lrnDigits_length] at stopAt
  refine ⟨?_, fun i hi => encodeLearning_digit_at P ident unit act (lrnDigits_identity P ident unit act hi),
    digitAt 0 rfl, digitAt 1 rfl, digitAt 2 rfl, digitAt 3 rfl, fun hin => ?_, fun hout => ?_⟩
  · exact (congrArg (List.take 11) (encodeLearning_seq P ident unit act)).trans rfl
  · rw [lrnUnitDigits_of_in_table hin] at digitAt stopAt
    exact ⟨digitAt 4 rfl, digitAt 5 rfl, stopAt⟩
  · rw [lrnUnitDigits_of_out_of_table hout] at stopAt
    exact stopAt

/-- Settles O8: 294 bits and 8 for each unit digit. -/
theorem learningSequenceLength : Obligations.LearningSequenceLength := by
  unfold Obligations.LearningSequenceLength
  intro P ident unit act
  rw [encodeLearning_length]
  split
  next hin => rw [lrnUnitDigits_of_in_table hin]; rfl
  next hout => rw [lrnUnitDigits_of_out_of_table hout]; rfl

/-- Settles O9: the layout gives every digit back, and the digits give the operands back. -/
theorem learningSequenceDeterminesTheCommand : Obligations.LearningSequenceDeterminesTheCommand := by
  unfold Obligations.LearningSequenceDeterminesTheCommand
  intro P ident ident' unit unit' act act' h1 h4 h1' h4' heq
  obtain ⟨-, hident, -, hact, -, -, hunit, -⟩ := learningSequenceLayout P ident unit act
  obtain ⟨-, hident', -, hact', -, -, hunit', -⟩ := learningSequenceLayout P ident' unit' act'
  obtain ⟨hone, hzero, -⟩ := hunit ⟨h1, h4⟩
  obtain ⟨hone', hzero', -⟩ := hunit' ⟨h1', h4'⟩
  rw [← heq] at hident' hact' hone' hzero'
  refine ⟨fun k hk => ?_, ?_, ?_⟩
  · have hbit := learningDigitBits_injective
      ((hident (25 - k) (by omega)).symm.trans (hident' (25 - k) (by omega)))
    rwa [show 25 - (25 - k) = k by omega] at hbit
  · refine lrnUnit_eq_of_digits_eq ⟨h1, h4⟩ ⟨h1', h4'⟩ ?_
    rw [lrnUnitDigits_of_in_table ⟨h1, h4⟩, lrnUnitDigits_of_in_table ⟨h1', h4'⟩,
      learningDigitBits_injective (hone.symm.trans hone'), learningDigitBits_injective (hzero.symm.trans hzero')]
  · exact Bool.not_inj (learningDigitBits_injective (hact.symm.trans hact'))

/-- Settles O10: the four entries as written, and the values outside them. -/
theorem learningUnitSelectorDigits : Obligations.LearningUnitSelectorDigits := by
  unfold Obligations.LearningUnitSelectorDigits
  refine ⟨rfl, rfl, rfl, rfl, fun unit => ⟨fun hin => ?_, fun hout => ⟨lrnUnitDigits_of_out_of_table hout, ?_⟩⟩⟩
  · rw [Bool.eq_false_iff, ne_eq, lrnOor_iff]
    omega
  · rw [lrnOor_iff]
    omega

end Sys2Proof.Machine

namespace Sys2Proof.Machine

/-! ### The nibbles of the identity byte and their entries -/

theorem house_toNat (ident : Word) : (house ident).toNat = ident.toNat / 16 % 16 := by
  simp [house, BitVec.extractLsb'_toNat, Nat.shiftRight_eq_div_pow]

theorem unitNibble_toNat (ident : Word) : (unitNibble ident).toNat = ident.toNat % 16 := by
  simp [unitNibble, BitVec.extractLsb'_toNat]

/-- A lookup, which gives nothing for a value without an entry, in a table whose entries all have `l` digits. -/
theorem lookup_length (p : Prop) [Decidable p] {table : List (List Digit)} {l k : Nat}
    (hentry : ∀ e ∈ table, e.length = l) (hk : p → k < table.length) :
    (if p then table.getD k [] else []).length = if p then l else 0 := by
  split
  next hp =>
    rw [List.getD_eq_getElem _ _ (hk hp)]
    exact hentry _ (List.getElem_mem _)
  next => rfl

/-- In a table that passes K6, every entry has as many digits as the first. -/
theorem entry_length_of_sameLengths {n : Nat} {table : Vector (List Digit) (n + 1)}
    (h : sameLengths table.toList = true) : ∀ e ∈ table.toList, e.length = table[0].length := by
  intro e he
  have hhead : table.toList.headD [] = table[0] := by
    rw [List.headD_eq_head?_getD, List.head?_eq_getElem?, List.getElem?_eq_getElem (by simp), Option.getD_some,
      Vector.getElem_toList]
  have := List.all_eq_true.1 h e he
  rwa [beq_iff_eq, hhead] at this

section
variable {P : Params}

/-- The digits of the Simple house and unit in a legal parameter set (K2, K3, K6). -/
theorem smpDigits_length (hP : P.legal = true) (h u : BitVec 4) :
    (smpHouseDigits P h).length = (if 10 ≤ h.toNat then 4 else 0) ∧
      (smpUnitDigits P u).length = if 1 ≤ u.toNat ∧ u.toNat ≤ 8 then 4 else 0 := by
  obtain ⟨-, -, -, -, hk3, -, -, hk6, -⟩ := (legal_iff P).1 hP
  simp only [Params.k6, Bool.and_eq_true] at hk6
  obtain ⟨⟨⟨⟨hhouse, -⟩, -⟩, -⟩, -⟩ := hk6
  have hhouse := entry_length_of_sameLengths hhouse
  rw [legal_house_A hP] at hhouse
  exact ⟨lookup_length _ hhouse fun _ => by rw [Vector.length_toList]; omega,
    lookup_length _ (fun e he => beq_iff_eq.1 (List.all_eq_true.1 hk3 e he)) fun _ => by rw [Vector.length_toList]; omega⟩

/-- The digits of the HellE house and unit in a legal parameter set (K6). -/
theorem hleDigits_length (hP : P.legal = true) (h u : BitVec 4) :
    (hleHouseDigits P h).length = (if 10 ≤ h.toNat then P.hleHouse[0].length else 0) ∧
      (hleUnitDigits P u).length = if 1 ≤ u.toNat ∧ u.toNat ≤ 4 then P.hleUnit[0].length else 0 := by
  obtain ⟨-, -, -, -, -, -, -, hk6, -⟩ := (legal_iff P).1 hP
  simp only [Params.k6, Bool.and_eq_true] at hk6
  obtain ⟨⟨⟨-, hhouse⟩, hunit⟩, -⟩ := hk6
  exact ⟨lookup_length _ (entry_length_of_sameLengths hhouse) fun _ => by rw [Vector.length_toList]; omega,
    lookup_length _ (entry_length_of_sameLengths hunit) fun _ => by rw [Vector.length_toList]; omega⟩

/-- A tri-state packet has L_T bits for each digit and then the stop bits (K4, K6, R87). -/
theorem triPacket_length (hP : P.legal = true) (house unit pad : List Digit) (act : Bool) :
    ((triPacket house unit pad act).flatMap (expT P)).length =
      P.tri0.length * (house.length + unit.length + pad.length + 1) + P.triStop.length := by
  rw [triPacket_flatMap, List.length_append, triDigits_length (triDigitBits_length hP)]
  simp only [List.length_append, List.length_singleton]

end

/-- Settles O12: the packets in order, with the house and the unit read from the identity byte. -/
theorem triStateSequencesFollowTheTables : Obligations.TriStateSequencesFollowTheTables := by
  unfold Obligations.TriStateSequencesFollowTheTables
  intro P ident act h u bits onOff smpH smpU hleH hleU
  have hbits : triDigitBits P = bits := by
    funext d
    cases d <;> rfl
  have hsmpH : smpHouseDigits P (house ident) = smpH := by rw [smpHouseDigits, house_toNat]
  have hsmpU : smpUnitDigits P (unitNibble ident) = smpU := by rw [smpUnitDigits, unitNibble_toNat]
  have hhleH : hleHouseDigits P (house ident) = hleH := by rw [hleHouseDigits, house_toNat]
  have hhleU : hleUnitDigits P (unitNibble ident) = hleU := by rw [hleUnitDigits, unitNibble_toNat]
  refine ⟨?_, rfl, ?_, rfl⟩
  · rw [← hbits, ← hsmpH, ← hsmpU]
    exact triPacket_flatMap P _ _ _ act
  · rw [← hbits, ← hhleH, ← hhleU]
    exact triPacket_flatMap P _ _ _ act

/-- Settles O13: the length of a packet, with the lengths of its two entries. -/
theorem triStateSequenceLength : Obligations.TriStateSequenceLength := by
  unfold Obligations.TriStateSequenceLength
  intro P ident act hP h u smpH smpU hleH hleU
  obtain ⟨hsmpH, hsmpU⟩ := smpDigits_length hP (house ident) (unitNibble ident)
  obtain ⟨hhleH, hhleU⟩ := hleDigits_length hP (house ident) (unitNibble ident)
  rw [house_toNat] at hsmpH hhleH
  rw [unitNibble_toNat] at hsmpU hhleU
  constructor
  · rw [encodeSimple, smpPacket, triPacket_length hP, hsmpH, hsmpU]
  · rw [encodeHellE, hlePacket, triPacket_length hP, hhleH, hhleU]

/-! ### On and off -/

/-- Sequences that differ in one group between a common beginning and a common end. -/
theorem differOnlyIn_append {x y : Bits} (hne : x ≠ y) (hlen : y.length = x.length) (p r : Bits) :
    DifferOnlyIn p.length x.length (p ++ x ++ r) (p ++ y ++ r) := by
  refine ⟨by simp [hlen], fun h => hne ?_, fun k hk => ?_⟩
  · exact List.append_cancel_left (List.append_cancel_right h)
  · obtain hk | hk := hk
    · rw [List.append_assoc, List.append_assoc, List.getElem?_append_left hk, List.getElem?_append_left hk]
    · rw [List.getElem?_append_right (by simpa using hk), List.getElem?_append_right (by simpa [hlen] using hk)]
      simp [hlen]

/-- On and off change the group of the activation digit of a Learning sequence (R74). -/
theorem encodeLearning_differOnlyIn (P : Params) (ident : Word) (unit : BitVec 4) :
    DifferOnlyIn 227 8 (encodeLearning P ident unit true).seq (encodeLearning P ident unit false).seq := by
  have hsplit (act : Bool) : (encodeLearning P ident unit act).seq =
      (lrnStartBits ++ (identityDigits ident ++ [P.lrnGroup]).flatMap learningDigitBits) ++ learningDigitBits (!act) ++
        ((P.lrnTail1 :: P.lrnTail0 :: lrnUnitDigits unit).flatMap learningDigitBits ++ lrnStopBits) := by
    simp [encodeLearning_seq, lrnDigits, List.flatMap_append]
  have hstart : (lrnStartBits ++ (identityDigits ident ++ [P.lrnGroup]).flatMap learningDigitBits).length = 227 := by
    rw [List.length_append, flatMap_learningDigitBits_length, List.length_append, identityDigits_length]
    rfl
  rw [hsplit true, hsplit false, ← hstart]
  exact differOnlyIn_append (learningDigitBits_injective.ne Bool.false_ne_true) rfl _ _

/-- On and off change the group of the activation digit of a tri-state sequence: `'X'` and `'0'` expand differently
(K8) and to one length (K4). -/
theorem triPacket_differOnlyIn {P : Params} (hP : P.legal = true) (house unit pad : List Digit) :
    DifferOnlyIn (P.tri0.length * (house.length + unit.length + pad.length)) P.tri0.length
      ((triPacket house unit pad true).flatMap (expT P)) ((triPacket house unit pad false).flatMap (expT P)) := by
  obtain ⟨hlen, -⟩ := legal_tri_lengths hP
  have hbefore : ((house ++ unit ++ pad).flatMap (triDigitBits P)).length =
      P.tri0.length * (house.length + unit.length + pad.length) := by
    rw [triDigits_length (triDigitBits_length hP), List.length_append, List.length_append]
  have hsplit (act : Bool) : (triPacket house unit pad act).flatMap (expT P) =
      (house ++ unit ++ pad).flatMap (triDigitBits P) ++ triDigitBits P (triActDigit act) ++ P.triStop := by
    rw [triPacket_flatMap, List.flatMap_append, List.flatMap_singleton]
  rw [hsplit true, hsplit false, ← hbefore, hlen]
  exact differOnlyIn_append (legal_x_ne_zero hP) hlen _ _

/-- Settles O14: each sequence split at its activation digit. -/
theorem activationChangesOneBitGroup : Obligations.ActivationChangesOneBitGroup := by
  unfold Obligations.ActivationChangesOneBitGroup
  exact ⟨encodeLearning_differOnlyIn, fun P ident hP =>
    ⟨triPacket_differOnlyIn hP _ _ _, triPacket_differOnlyIn hP _ _ _⟩⟩

/-! ### What every command encodes to -/

/-- Settles O15: what `EndsLowAndFits` says, with K7's bound on the buffer. -/
theorem encodedSequencesEndLowAndFit : Obligations.EncodedSequencesEndLowAndFit := by
  unfold Obligations.EncodedSequencesEndLowAndFit
  intro P i hP
  refine ⟨fun e he => ?_, encodeCommand_eq_none_iff P i⟩
  have hheld := encodeCommand_endsLowAndFits hP he
  have hpos := hheld.length_pos
  obtain ⟨hlast, hfits⟩ := hheld
  obtain ⟨-, -, -, hmax⟩ := legal_seq_max hP
  exact ⟨List.ne_nil_of_length_pos hpos, hlast, hfits, by omega⟩

/-! ### Commands out of table -/

section
variable {ident : Word}

theorem smpOor_iff : smpOor ident = true ↔
    ident.toNat / 16 % 16 < 10 ∨ ident.toNat % 16 < 1 ∨ 8 < ident.toNat % 16 := by
  rw [smpOor, house_toNat, unitNibble_toNat, decide_eq_true_iff]

theorem hleOor_iff : hleOor ident = true ↔
    ident.toNat / 16 % 16 < 10 ∨ ident.toNat % 16 < 1 ∨ 4 < ident.toNat % 16 := by
  rw [hleOor, house_toNat, unitNibble_toNat, decide_eq_true_iff]

/-- A house below 0xA has no entry (R78, R81). -/
theorem houseDigits_of_out_of_table (h : ident.toNat / 16 % 16 < 10) (P : Params) :
    smpHouseDigits P (house ident) = [] ∧ hleHouseDigits P (house ident) = [] := by
  rw [← house_toNat] at h
  exact ⟨if_neg (by omega), if_neg (by omega)⟩

/-- A unit outside 1 to 8 has no Simple entry (R78). -/
theorem smpUnitDigits_of_out_of_table (h : ident.toNat % 16 < 1 ∨ 8 < ident.toNat % 16) (P : Params) :
    smpUnitDigits P (unitNibble ident) = [] := by
  rw [← unitNibble_toNat] at h
  exact if_neg (by omega)

/-- A unit outside 1 to 4 has no HellE entry (R81). -/
theorem hleUnitDigits_of_out_of_table (h : ident.toNat % 16 < 1 ∨ 4 < ident.toNat % 16) (P : Params) :
    hleUnitDigits P (unitNibble ident) = [] := by
  rw [← unitNibble_toNat] at h
  exact if_neg (by omega)

end

/-- Settles O16: the flags and the lookups make the same case split, and START takes the flag over into STATUS. -/
theorem outOfTableCommandsAreStillSent : Obligations.OutOfTableCommandsAreStillSent := by
  unfold Obligations.OutOfTableCommandsAreStillSent
  refine ⟨fun P ident unit act => ?_, fun i e s he hs hreps => ?_⟩
  · refine ⟨lrnOor_iff unit, fun hoor => lrnUnitDigits_of_out_of_table ?_, smpOor_iff,
      fun h => (houseDigits_of_out_of_table h P).1, fun h => smpUnitDigits_of_out_of_table h P, hleOor_iff,
      fun h => (houseDigits_of_out_of_table h P).2, fun h => hleUnitDigits_of_out_of_table h P⟩
    have := (lrnOor_iff unit).1 hoor
    omega
  · obtain ⟨t, ht⟩ := exec_answers i s
    obtain rfl := exec_eq_beginTransmission ht he hreps hs
    exact ⟨_, ht, by simp⟩

end Sys2Proof.Machine

namespace Sys2Proof.Machine

/-! ### What an accepted START writes -/

/-- A bit that the sequence holds is the bit that a slot start reads (R40). -/
theorem seqBit_of_getElem? {s : State} {k : Nat} {b : Bool} (h : s.seq[k]? = some b) : seqBit s k = b := by
  rw [seqBit, List.getD_eq_getElem?_getD, h, Option.getD_some]

section
variable {i : Instr} {e : Encoded} {s : State}

/-- The bits of every encoded command are counted by the 16 bits of LEN (K7, R36). -/
theorem toNat_ofNat_seq_length (he : encodeCommand Config.params i = some e) :
    (BitVec.ofNat 16 e.seq.length).toNat = e.seq.length :=
  (seqHeld_capture (encodeCommand_endsLowAndFits config_params_legal he) 0 State.reset).1.symm

/-- An accepted START is the answer of an idle block to a command that an encoder takes (R90). -/
theorem exec_of_encoding (he : encodeCommand Config.params i = some e) (hs : s.phase = .idle) :
    exec i s = .next (acceptStart e (repsOf i) s) := by
  rw [exec_eq_next, he, Option.elim_some, start, not_busy_iff.2 hs]
  rfl

/-- With a repetition to send, the answer is the beginning of the transmission (R90). -/
theorem exec_begins_transmission (he : encodeCommand Config.params i = some e) (hs : s.phase = .idle)
    (hreps : repsOf i ≠ 0) : exec i s = .next (beginTransmission (capture e (repsOf i) s)) := by
  rw [exec_of_encoding he hs, acceptStart, if_neg hreps]

/-- With a repetition to send, START captures the command and starts its first slot at this instant (R88, R90). -/
theorem exec_starts_first_slot {b : Bool} (he : encodeCommand Config.params i = some e) (hb : e.seq.head? = some b)
    (hs : s.phase = .idle) (hreps : repsOf i ≠ 0) :
    exec i s = .next { s with
      seq := e.seq
      len := BitVec.ofNat 16 e.seq.length
      capW := e.width
      capReps := repsOf i
      oor := e.oor
      done := false
      rep := 0
      replay := 0
      bit := 0
      phase := .bit
      deadline := s.now + widthUs e.width
      pin := b
      events := s.events ++ [⟨s.now, b, 0, 0, 0⟩] } := by
  have hfirst : seqBit (capture e (repsOf i) s) 0 = b := seqBit_of_getElem? (List.head?_eq_getElem? ▸ hb)
  rw [exec_begins_transmission he hs hreps, ← hfirst]
  rfl

theorem exists_head?_of_encoding (he : encodeCommand Config.params i = some e) : ∃ b, e.seq.head? = some b := by
  have hpos := (encodeCommand_endsLowAndFits config_params_legal he).length_pos
  exact ⟨_, List.head?_eq_getElem? ▸ List.getElem?_eq_getElem hpos⟩

end

/-! ### What the sequencer does to the pin -/

/-- `t` comes from `s` by one slot start: the trace grew by the slot that `t` stands in, which began at NOW
(R88, R89). -/
def SlotStarted (s t : State) : Prop :=
  t.events = s.events ++ [⟨t.now, t.pin, t.rep, t.replay, t.bit⟩] ∧ t.phase = .bit ∧ t.deadline = t.now + widthUs t.capW

/-- `t` comes from `s` without a slot start: neither the trace nor the pin changed. -/
def PinKept (s t : State) : Prop := t.events = s.events ∧ t.pin = s.pin

section
variable {s t : State} {i : Instr}

/-- `emit` at a deadline that is reached starts a slot (R88). -/
theorem slotStarted_emit (b : Bool) (hp : s.phase = .bit) (hd : s.deadline = s.now) : SlotStarted s (emit b s) := by
  simp [SlotStarted, hp, hd]

theorem tick_pin (s : State) : PinKept s (tick s) ∨ SlotStarted s (tick s) := by
  obtain ⟨-, h⟩ | ⟨hp, hd, h⟩ | ⟨-, hd, h⟩ := tick_cases s <;> rw [h]
  · exact .inl ⟨rfl, rfl⟩
  · obtain ⟨-, h⟩ | ⟨-, -, h⟩ | ⟨-, -, h⟩ := slotEnd_cases { s with now := s.now + 1 } <;> rw [h]
    · exact .inr (slotStarted_emit (s := { s with now := s.now + 1, bit := s.bit + 1 }) _ hp hd.symm)
    · exact .inr (slotStarted_emit (s := { s with now := s.now + 1, bit := 0, replay := s.replay + 1 }) _ hp hd.symm)
    · exact .inl ⟨rfl, rfl⟩
  · obtain ⟨-, h⟩ | ⟨-, h⟩ := gapEnd_cases { s with now := s.now + 1 } <;> rw [h]
    · exact .inr (slotStarted_emit (s := { s with now := s.now + 1, rep := s.rep + 1, phase := .bit }) _ rfl hd.symm)
    · exact .inl ⟨rfl, rfl⟩

theorem accessState_pin (s : State) : PinKept s (accessState s) ∨ SlotStarted s (accessState s) := by
  unfold accessState
  split
  · exact tick_pin { s with agenda := nextAgenda s, busOut := none }
  · exact .inl ⟨rfl, rfl⟩

/-- A command starts at most one slot, and that slot is the one its transmission begins with (R90). -/
theorem exec_pin (h : exec i s = .next t) : PinKept s t ∨ SlotStarted s t := by
  obtain ⟨-, rfl⟩ | ⟨-, -, rfl⟩ | ⟨-, e, -, rfl⟩ := exec_next h
  · exact .inl ⟨rfl, rfl⟩
  · exact .inl ⟨rfl, rfl⟩
  · obtain ⟨-, ht⟩ | ⟨-, ht⟩ := acceptStart_cases e (repsOf i) s <;> rw [ht]
    · exact .inl ⟨rfl, rfl⟩
    · exact .inr ⟨rfl, rfl, rfl⟩

end

/-! ### Every state that a run from reset reaches -/

/-- What holds at first and is kept by every step holds wherever a run leads. -/
theorem run_keeps {p : State → Prop} (hstep : ∀ s t, p s → step s = .next t → p t) {k : Nat} {s t : State}
    (hs : p s) (h : Host.Core.run core k s = .next t) : p t := by
  induction k generalizing s with
  | zero =>
    injection h with h
    exact h ▸ hs
  | succ k ih =>
    cases hu : step s with
    | next u => exact ih (hstep s u hs hu) (by simpa [Host.Core.run, core, hu] using h)
    | fault r => cases r
    | refused r => simp [Host.Core.run, core, hu] at h

/-- The invariant holds of every state that a run from reset reaches, under every agenda (R39, R102, R105). -/
theorem inv_of_run {agenda : List HostAction} {k : Nat} {t : State}
    (h : Host.Core.run core k { State.reset with agenda := agenda } = .next t) : Inv t :=
  run_keeps everyStepKeepsTheInvariant (inv_resetStep { State.reset with agenda := agenda }) h

/-- The facts that R39 lists are part of the invariant. -/
theorem reachableFacts_of_inv {s : State} (hi : Inv s) : ReachableFacts s := by
  obtain ⟨-, hphase⟩ := hi
  have hbusy : (statusWord s).getLsbD 0 = true ↔ s.phase ≠ .idle := by
    rw [statusWord_getLsbD s (by decide), if_pos rfl, busy_iff]
  refine ⟨hbusy, fun hp => ?_, fun hp => ?_, fun hp => ?_, fun hp => ?_⟩
  · obtain ⟨hrep, hreplay, hbit, -⟩ := (phaseHeld_of_idle hp).1 hphase
    exact ⟨hrep, hreplay, hbit⟩
  · obtain ⟨hrep, hreplay, hbit, hpin, -⟩ := (phaseHeld_of_bit hp).1 hphase
    exact ⟨by bv_omega, hrep, hreplay, hbit, hpin⟩
  · obtain ⟨hrep, hreplay, hbit, -⟩ := (phaseHeld_of_gap hp).1 hphase
    exact ⟨hrep, hreplay, hbit⟩
  · cases hphase' : s.phase with
    | idle => exact absurd hphase' hp
    | bit =>
      obtain ⟨-, -, hbit, -⟩ := (phaseHeld_of_bit hphase').1 hphase
      bv_omega
    | gap =>
      obtain ⟨-, -, -, -, hlen, -⟩ := (phaseHeld_of_gap hphase').1 hphase
      exact hlen

/-! ### The statements about START -/

/-- Settles O17: a Learning sequence begins with the start symbol's 1 and has 310 bits with a unit, else 294. -/
theorem txLrnStartsItsTransmission : Obligations.TxLrnStartsItsTransmission := by
  unfold Obligations.TxLrnStartsItsTransmission
  intro ident unit act reps s hs hreps
  have hfirst : (encodeLearning Config.params ident unit act).seq.head? = some true := by
    rw [encodeLearning_seq]
    rfl
  have hlen : BitVec.ofNat 16 (encodeLearning Config.params ident unit act).seq.length =
      if 1 ≤ unit.toNat ∧ unit.toNat ≤ 4 then 310 else 294 := by
    rw [encodeLearning_length]
    split
    · next hunit => rw [lrnUnitDigits_of_in_table hunit]; rfl
    · next hunit => rw [lrnUnitDigits_of_out_of_table hunit]; rfl
  rw [exec_starts_first_slot (i := .txLrn ident unit act reps) rfl hfirst hs hreps, hlen]
  rfl

/-- Settles O18, by what an accepted START writes. -/
theorem txSmpStartsItsTransmission : Obligations.TxSmpStartsItsTransmission := by
  unfold Obligations.TxSmpStartsItsTransmission
  intro ident unit act reps s hs hreps
  have he : encodeCommand Config.params (.txSmp ident unit act reps) = some (encodeSimple Config.params ident act) :=
    rfl
  have hoor : smpOor ident = decide _ := Bool.eq_iff_iff.2 (smpOor_iff.trans decide_eq_true_iff.symm)
  obtain ⟨b, hb⟩ := exists_head?_of_encoding he
  refine ⟨b, _, hb, toNat_ofNat_seq_length he, ?_⟩
  rw [exec_starts_first_slot he hb hs hreps, show (encodeSimple Config.params ident act).oor = _ from hoor]
  rfl

/-- Settles O19, by what an accepted START writes. -/
theorem txHleStartsItsTransmission : Obligations.TxHleStartsItsTransmission := by
  unfold Obligations.TxHleStartsItsTransmission
  intro ident unit act reps s hs hreps
  have he : encodeCommand Config.params (.txHle ident unit act reps) = some (encodeHellE Config.params ident act) := rfl
  obtain ⟨b, hb⟩ := exists_head?_of_encoding he
  have hoor : hleOor ident = decide _ := Bool.eq_iff_iff.2 (hleOor_iff.trans decide_eq_true_iff.symm)
  refine ⟨b, _, hb, toNat_ofNat_seq_length he, ?_⟩
  rw [exec_starts_first_slot he hb hs hreps, show (encodeHellE Config.params ident act).oor = _ from hoor]
  rfl

/-- Settles O21: without a repetition an accepted START only captures. -/
theorem zeroRepetitionsSendNothing : Obligations.ZeroRepetitionsSendNothing := by
  unfold Obligations.ZeroRepetitionsSendNothing
  intro i e s he hreps hs
  refine ⟨_, toNat_ofNat_seq_length he, ?_⟩
  rw [exec_of_encoding he hs, acceptStart, if_pos hreps, hreps]
  rfl

/-- Settles O20: the reserved command is the one without an encoding. -/
theorem reservedVariantIsRefused : Obligations.ReservedVariantIsRefused := by
  unfold Obligations.ReservedVariantIsRefused
  intro ident unit act reps s hs
  exact exec_of_no_encoding hs rfl

/-- Settles O22: the busy check comes before everything else. -/
theorem startWhileBusyIsRefused : Obligations.StartWhileBusyIsRefused := by
  unfold Obligations.StartWhileBusyIsRefused
  intro i s hs
  exact exec_of_busy i hs

/-! ### The statements about the tick and the pin -/

/-- Settles O40, branch by branch. -/
theorem tickRunsTheSequencerAtTheDeadline : Obligations.TickRunsTheSequencerAtTheDeadline := by
  unfold Obligations.TickRunsTheSequencerAtTheDeadline
  exact fun s => ⟨tick_of_waiting, fun ⟨hp, hd⟩ => tick_of_slot_over hp hd, fun ⟨hp, hd⟩ => tick_of_gap_over hp hd⟩

/-- Settles O41, branch by branch. -/
theorem slotEndStartsTheNextSlotOrTheGap : Obligations.SlotEndStartsTheNextSlotOrTheGap := by
  unfold Obligations.SlotEndStartsTheNextSlotOrTheGap
  refine fun s b => ⟨fun hbit hb => ?_, fun hbit hreplay hb => ?_, slotEnd_of_last_replay⟩
  · rw [slotEnd_of_bit_lt hbit, seqBit_of_getElem? hb]
    rfl
  · rw [slotEnd_of_replay_lt hbit hreplay, seqBit_of_getElem? hb]
    rfl

/-- Settles O42, branch by branch. -/
theorem gapEndStartsTheNextRepetitionOrCompletes : Obligations.GapEndStartsTheNextRepetitionOrCompletes := by
  unfold Obligations.GapEndStartsTheNextRepetitionOrCompletes
  refine fun s b => ⟨fun hrep hb => ?_, gapEnd_of_last_rep⟩
  rw [gapEnd_of_rep_lt hrep, seqBit_of_getElem? hb]
  rfl

/-- Settles O43: the tick of a cycle starts at most one slot, and a command starts one only when the block is idle after
that tick, so that the tick started none. -/
theorem pinChangesOnlyAtASlotStart : Obligations.PinChangesOnlyAtASlotStart := by
  unfold Obligations.PinChangesOnlyAtASlotStart
  intro s t h hrst
  have haccess := accessState_pin s
  obtain ⟨hr, -⟩ | ⟨-, -, u, hexec, rfl⟩ | ⟨-, v, -, rfl⟩ | ⟨-, ht⟩ := step_effect h
  · simp [hrst] at hr
  · by_cases hidle : (accessState s).phase = .idle
    · obtain ⟨hevents, hpin⟩ | ⟨-, hbit, -⟩ := haccess
      · have hstart := exec_pin hexec
        rwa [PinKept, SlotStarted, hevents, hpin] at hstart
      · simp [hidle] at hbit
    · rw [exec_of_busy _ hidle] at hexec
      injection hexec with hu
      rw [← hu]
      exact haccess
  · exact haccess
  · rw [ht]
    exact haccess

/-! ### The statements about every reachable state -/

/-- Settles O52: the invariant of O51 holds on every run from reset. -/
theorem reachableStatesMeetTheListedFacts : Obligations.ReachableStatesMeetTheListedFacts := by
  unfold Obligations.ReachableStatesMeetTheListedFacts
  exact fun agenda k t h => reachableFacts_of_inv (inv_of_run h)

/-- Settles O53, from the same invariant. -/
theorem thePinIsLowOutsideSlots : Obligations.ThePinIsLowOutsideSlots := by
  unfold Obligations.ThePinIsLowOutsideSlots
  intro agenda k t h hp
  obtain ⟨-, hphase⟩ := inv_of_run h
  cases hp' : t.phase with
  | idle =>
    obtain ⟨-, -, -, hpin⟩ := (phaseHeld_of_idle hp').1 hphase
    exact hpin
  | bit => exact absurd hp' hp
  | gap =>
    obtain ⟨-, -, -, hpin, -⟩ := (phaseHeld_of_gap hp').1 hphase
    exact hpin

end Sys2Proof.Machine

namespace Sys2Proof.Machine

/-! ### Times after a START -/

section
variable {t0 : Word} {a b : Nat} {e : Encoded}

theorem timeAfter_zero (t0 : Word) : timeAfter t0 0 = t0 := BitVec.add_zero t0

theorem timeAfter_add (t0 : Word) (a b : Nat) : timeAfter t0 a + BitVec.ofNat 32 b = timeAfter t0 (a + b) := by
  rw [timeAfter, timeAfter, BitVec.ofNat_add, BitVec.add_assoc]

theorem timeAfter_add_one (t0 : Word) (a : Nat) : timeAfter t0 a + 1 = timeAfter t0 (a + 1) := timeAfter_add t0 a 1

/-- A deadline at most a gap ahead is not taken for the present when NOW wraps (R105). -/
theorem timeAfter_ne (hlt : a < b) (hle : b ≤ a + 35000) : timeAfter t0 a ≠ timeAfter t0 b := by
  intro h
  have hmod := congrArg BitVec.toNat ((BitVec.add_right_inj t0).1 h)
  simp only [BitVec.toNat_ofNat] at hmod
  omega

theorem widthUs_eq_ofNat (e : Encoded) : widthUs e.width = BitVec.ofNat 32 (slotUs e) := by
  rw [slotUs, BitVec.ofNat_toNat, BitVec.setWidth_eq]

theorem slotUs_pos (e : Encoded) : 0 < slotUs e := widthUs_pos e.width

theorem slotUs_le (e : Encoded) : slotUs e ≤ 35000 := by
  rw [slotUs]
  cases e.width <;> decide

theorem add_one_mul_periodUs (e : Encoded) (r : Nat) :
    (r + 1) * periodUs e = r * periodUs e + frameGroupUs e + 35000 :=
  (Nat.add_one_mul r _).trans (Nat.add_assoc ..).symm

theorem frameGroupUs_pos {e : Encoded} (he : EndsLowAndFits Config.params e.seq) : 0 < frameGroupUs e :=
  Nat.mul_pos (Nat.mul_pos (by decide) he.length_pos) (slotUs_pos e)

theorem periodUs_pos (e : Encoded) : 0 < periodUs e := Nat.add_pos_right _ (by decide)

end

/-- Every encoded sequence is counted by 16 bits (K7). -/
theorem EndsLowAndFits.length_lt {q : Bits} (h : EndsLowAndFits Config.params q) : q.length < 2 ^ 16 := by
  obtain ⟨-, hfits⟩ := h
  obtain ⟨-, -, -, hmax⟩ := legal_seq_max config_params_legal
  omega

/-! ### Counting through the slots -/

section
variable {a b k l w : Nat}

/-- Within a block of `b`, counting on moves the remainder. -/
theorem succ_div_mod_of_lt (h : a % b + 1 < b) : (a + 1) / b = a / b ∧ (a + 1) % b = a % b + 1 := by
  refine (Nat.div_mod_unique (by omega)).2 ⟨?_, h⟩
  have := Nat.mod_add_div a b
  omega

/-- At the end of a block of `b`, counting on begins the next block. -/
theorem succ_div_mod_of_eq (h : a % b + 1 = b) : (a + 1) / b = a / b + 1 ∧ (a + 1) % b = 0 := by
  refine (Nat.div_mod_unique (by omega)).2 ⟨?_, by omega⟩
  have := Nat.mod_add_div a b
  rw [Nat.mul_succ]
  omega

/-- A counter and its limit compare as the numbers do that fit their width. -/
theorem ofNat_add_one_lt_iff (hk : k < l) (hl : l < 2 ^ w) :
    BitVec.ofNat w k + 1 < BitVec.ofNat w l ↔ k + 1 < l := by
  rw [show (1 : BitVec w) = BitVec.ofNat w 1 from rfl, ← BitVec.ofNat_add, BitVec.lt_def, BitVec.toNat_ofNat,
    BitVec.toNat_ofNat, Nat.mod_eq_of_lt hl, Nat.mod_eq_of_lt (by omega)]

/-- A counter compares with a limit of its width as their numbers do. -/
theorem ofNat_add_one_lt_iff_toNat {n : BitVec w} (hk : k < n.toNat) : BitVec.ofNat w k + 1 < n ↔ k + 1 < n.toNat := by
  have h := ofNat_add_one_lt_iff hk n.isLt
  rwa [BitVec.ofNat_toNat, BitVec.setWidth_eq] at h

end

/-! ### The schedule, slot by slot -/

/-- The event of slot `q` of repetition `r`, the slots counted through all five replays (R89, R106). -/
def slotEvent (e : Encoded) (t0 : Word) (r q : Nat) : SlotEvent where
  time := timeAfter t0 (r * periodUs e + q * slotUs e)
  level := e.seq.getD (q % e.seq.length) false
  rep := BitVec.ofNat 8 r
  replay := BitVec.ofNat 3 (q / e.seq.length)
  bit := BitVec.ofNat 16 (q % e.seq.length)

/-- Counting by blocks of `b` is counting through. -/
theorem flatMap_range_map_range {α : Type} (f : Nat → Nat → α) (a b : Nat) :
    ((List.range a).flatMap fun p => (List.range b).map (f p)) =
      (List.range (a * b)).map fun q => f (q / b) (q % b) := by
  induction a with
  | zero => simp
  | succ a ih =>
    have hblock : ∀ k ∈ List.range b, f a k = f ((a * b + k) / b) ((a * b + k) % b) := fun k hk => by
      have hk := List.mem_range.1 hk
      obtain ⟨hdiv, hmod⟩ := (Nat.div_mod_unique (a := a * b + k) (by omega)).2 ⟨by rw [Nat.mul_comm, Nat.add_comm], hk⟩
      rw [hdiv, hmod]
    rw [List.range_succ, List.flatMap_append, ih, List.flatMap_singleton, Nat.add_one_mul, List.range_add,
      List.map_append, List.map_map, List.map_congr_left hblock]
    rfl

/-- The schedule of one more repetition ends with that repetition's slots (R107). -/
theorem scheduledEvents_succ (e : Encoded) (r : Nat) (t0 : Word) : scheduledEvents e (r + 1) t0 =
    scheduledEvents e r t0 ++ (List.range (5 * e.seq.length)).map (slotEvent e t0 r) := by
  rw [scheduledEvents, List.range_succ (n := r), List.flatMap_append, List.flatMap_singleton, flatMap_range_map_range]
  simp only [Nat.div_add_mod']
  rfl

theorem scheduledEvents_length (e : Encoded) (n : Nat) (t0 : Word) :
    (scheduledEvents e n t0).length = 5 * e.seq.length * n := by
  induction n with
  | zero => rfl
  | succ n ih => rw [scheduledEvents_succ, List.length_append, ih, List.length_map, List.length_range, Nat.mul_succ]

/-! ### The states of a transmission -/

/-- Slot `q` of repetition `r`, `m` microseconds after a START on `s`: its first `q + 1` slots are on record. -/
def slotState (e : Encoded) (n : BitVec 8) (s : State) (r q m : Nat) : State :=
  { capture e n s with
    now := timeAfter s.now m
    phase := .bit
    rep := BitVec.ofNat 8 r
    replay := BitVec.ofNat 3 (q / e.seq.length)
    bit := BitVec.ofNat 16 (q % e.seq.length)
    deadline := timeAfter s.now (r * periodUs e + (q + 1) * slotUs e)
    pin := e.seq.getD (q % e.seq.length) false
    events := s.events ++ scheduledEvents e r s.now ++ (List.range (q + 1)).map (slotEvent e s.now r) }

/-- The instant `m` at which slot `q` of repetition `r` is due: the last deadline is now, and the slots before it are on
record. -/
def dueState (e : Encoded) (n : BitVec 8) (s : State) (r q m : Nat) (pin : Bool) : State :=
  { slotState e n s r q m with
    deadline := timeAfter s.now m
    pin := pin
    events := s.events ++ scheduledEvents e r s.now ++ (List.range q).map (slotEvent e s.now r) }

/-- The gap of repetition `r`, `m` microseconds after a START on `s`. -/
def gapState (e : Encoded) (n : BitVec 8) (s : State) (r m : Nat) : State :=
  { capture e n s with
    now := timeAfter s.now m
    phase := .gap
    rep := BitVec.ofNat 8 r
    replay := 0
    bit := 0
    deadline := timeAfter s.now ((r + 1) * periodUs e)
    pin := false
    events := s.events ++ scheduledEvents e (r + 1) s.now }

/-- The end of a transmission that was started on `s` (R100, R107). -/
def sentState (e : Encoded) (n : BitVec 8) (s : State) : State :=
  { capture e n s with
    now := timeAfter s.now (n.toNat * periodUs e)
    phase := .idle
    done := true
    rep := 0
    replay := 0
    bit := 0
    deadline := timeAfter s.now (n.toNat * periodUs e)
    pin := false
    events := s.events ++ scheduledEvents e n.toNat s.now }

/-- `d` microseconds into repetition `r`: a slot of its frame group, or its gap (R106). -/
def repState (e : Encoded) (n : BitVec 8) (s : State) (r d : Nat) : State :=
  if d < frameGroupUs e then slotState e n s r (d / slotUs e) (r * periodUs e + d)
  else gapState e n s r (r * periodUs e + d)

section
variable {e : Encoded} {n : BitVec 8} {s : State} {r q m d : Nat}

theorem repState_of_slot (h : d < frameGroupUs e) :
    repState e n s r d = slotState e n s r (d / slotUs e) (r * periodUs e + d) := if_pos h

theorem repState_of_gap (h : frameGroupUs e ≤ d) : repState e n s r d = gapState e n s r (r * periodUs e + d) :=
  if_neg (Nat.not_lt.2 h)

/-! ### What a tick does in a slot and in a gap -/

theorem tick_slotState_waiting (hle : r * periodUs e + q * slotUs e ≤ m)
    (hlt : m + 1 < r * periodUs e + (q + 1) * slotUs e) :
    tick (slotState e n s r q m) = slotState e n s r q (m + 1) := by
  have hnow := timeAfter_add_one s.now m
  have hslot := slotUs_le e
  rw [Nat.add_one_mul] at hlt
  have hne : timeAfter s.now (m + 1) ≠ timeAfter s.now (r * periodUs e + (q + 1) * slotUs e) :=
    timeAfter_ne (by rw [Nat.add_one_mul]; omega) (by rw [Nat.add_one_mul]; omega)
  rw [tick_of_waiting (s := slotState e n s r q m) (.inr (hnow ▸ hne :))]
  simp only [slotState, hnow]

theorem tick_gapState_waiting (hle : (r + 1) * periodUs e ≤ m + 35000) (hlt : m + 1 < (r + 1) * periodUs e) :
    tick (gapState e n s r m) = gapState e n s r (m + 1) := by
  have hnow := timeAfter_add_one s.now m
  have hne : timeAfter s.now (m + 1) ≠ timeAfter s.now ((r + 1) * periodUs e) := timeAfter_ne hlt (by omega)
  rw [tick_of_waiting (s := gapState e n s r m) (.inr (hnow ▸ hne :))]
  simp only [gapState, hnow]

/-- At the deadline of a slot a tick ends it (R97). -/
theorem tick_slotState_over (hm : m + 1 = r * periodUs e + (q + 1) * slotUs e) :
    tick (slotState e n s r q m) = slotEnd (slotState e n s r q (m + 1)) := by
  have hnow := timeAfter_add_one s.now m
  rw [tick_of_slot_over (s := slotState e n s r q m) rfl (hnow.trans (congrArg _ hm))]
  simp only [slotState, hnow]

/-- At the deadline of a gap a tick ends it (R97). -/
theorem tick_gapState_over (hm : m + 1 = (r + 1) * periodUs e) :
    tick (gapState e n s r m) = gapEnd (gapState e n s r (m + 1)) := by
  have hnow := timeAfter_add_one s.now m
  rw [tick_of_gap_over (s := gapState e n s r m) rfl (hnow.trans (congrArg _ hm))]
  simp only [gapState, hnow]

/-- A bit of the sequence is the bit that a slot start reads, whatever stands beyond its end (R40). -/
theorem seqBit_eq_getD {u : State} {k : Nat} (hk : k < u.seq.length) : seqBit u k = u.seq.getD k false := by
  rw [seqBit, List.getD_eq_getElem _ _ hk, List.getD_eq_getElem _ _ hk]

/-- `emit` turns the state in which a slot is due into that slot (R88). -/
theorem emit_eq_slotState {u : State} {k : Nat} {pin : Bool} (he : EndsLowAndFits Config.params e.seq)
    (hm : m = r * periodUs e + q * slotUs e) (hk : k = q % e.seq.length) (hu : u = dueState e n s r q m pin) :
    emit (seqBit u k) u = slotState e n s r q m := by
  have hbit : seqBit u k = e.seq.getD (q % e.seq.length) false := by
    rw [hu, hk]
    exact seqBit_eq_getD (Nat.mod_lt q he.length_pos)
  rw [hbit, hu]
  simp [emit, dueState, slotState, slotEvent, hm, widthUs_eq_ofNat, timeAfter_add, List.range_succ, Nat.add_one_mul,
    Nat.add_assoc]

/-- The first slot of a transmission starts at its START (R90). -/
theorem beginTransmission_eq_slotState (he : EndsLowAndFits Config.params e.seq) :
    beginTransmission (capture e n s) = slotState e n s 0 0 0 := by
  refine emit_eq_slotState (pin := s.pin) he (by simp) (Nat.zero_mod _).symm ?_
  simp [dueState, slotState, timeAfter_zero, scheduledEvents]

/-- The end of a slot that is not the last of the fifth replay starts the next one (R98). -/
theorem slotEnd_slotState (he : EndsLowAndFits Config.params e.seq) (hq : q + 1 < 5 * e.seq.length)
    (hm : m = r * periodUs e + (q + 1) * slotUs e) :
    slotEnd (slotState e n s r q m) = slotState e n s r (q + 1) m := by
  have hmod := Nat.mod_lt q he.length_pos
  have hlen := he.length_lt
  have hbit := ofNat_add_one_lt_iff hmod hlen
  by_cases hnext : q % e.seq.length + 1 < e.seq.length
  · obtain ⟨hdiv', hmod'⟩ := succ_div_mod_of_lt hnext
    have hk : (BitVec.ofNat 16 (q % e.seq.length) + 1).toNat = (q + 1) % e.seq.length := by
      rw [hmod']
      bv_omega
    rw [slotEnd_of_bit_lt (s := slotState e n s r q m) (hbit.2 hnext)]
    refine emit_eq_slotState (pin := (slotState e n s r q m).pin) he hm hk ?_
    simp [dueState, slotState, hdiv', hmod', hm, BitVec.ofNat_add]
  · obtain ⟨hdiv', hmod'⟩ := succ_div_mod_of_eq (a := q) (b := e.seq.length) (by omega)
    have hreplay : q / e.seq.length + 1 < 5 := hdiv' ▸ Nat.div_lt_of_lt_mul (Nat.mul_comm .. ▸ hq)
    have hreplay := (ofNat_add_one_lt_iff (w := 3) (Nat.lt_of_succ_lt hreplay) (by decide)).2 hreplay
    rw [slotEnd_of_replay_lt (s := slotState e n s r q m) (mt hbit.1 hnext) hreplay]
    refine emit_eq_slotState (pin := (slotState e n s r q m).pin) he hm hmod'.symm ?_
    simp [dueState, slotState, hdiv', hmod', hm, BitVec.ofNat_add]

/-- The end of the last slot of the fifth replay, which leaves the pin low, begins the gap (R98, R102). -/
theorem slotEnd_slotState_last (he : EndsLowAndFits Config.params e.seq) (hq : q + 1 = 5 * e.seq.length) :
    slotEnd (slotState e n s r q m) = gapState e n s r m := by
  have hpos := he.length_pos
  have hlow : e.seq.getLast? = some false := he.1
  obtain ⟨hdiv, hmod⟩ : q / e.seq.length = 4 ∧ q % e.seq.length = e.seq.length - 1 :=
    (Nat.div_mod_unique hpos).2 ⟨by omega, by omega⟩
  have hbit := ofNat_add_one_lt_iff (Nat.mod_lt q hpos) he.length_lt
  have hlast : ¬(slotState e n s r q m).bit + 1 < (slotState e n s r q m).len := mt hbit.1 (by omega)
  have hreplay : ¬(slotState e n s r q m).replay + 1 < 5 := by simp [slotState, hdiv]
  have hpin : e.seq.getD (q % e.seq.length) false = false := by
    rw [List.getD_eq_getElem?_getD, hmod, ← List.getLast?_eq_getElem?, hlow, Option.getD_some]
  have hdeadline : timeAfter s.now (r * periodUs e + 5 * e.seq.length * slotUs e) + 35000 =
      timeAfter s.now ((r + 1) * periodUs e) := by
    rw [add_one_mul_periodUs]
    exact timeAfter_add _ _ 35000
  rw [slotEnd_of_last_replay hlast hreplay]
  simp only [slotState, gapState, hpin, hq, hdeadline, scheduledEvents_succ, List.append_assoc]

/-! ### The end of a gap -/

/-- The end of a gap that is not the last starts the next repetition (R99). -/
theorem gapEnd_gapState (he : EndsLowAndFits Config.params e.seq) (hr : r + 1 < n.toNat)
    (hm : m = (r + 1) * periodUs e) :
    gapEnd (gapState e n s r m) = slotState e n s (r + 1) 0 m := by
  have hrep := (ofNat_add_one_lt_iff_toNat (Nat.lt_of_succ_lt hr)).2 hr
  rw [gapEnd_of_rep_lt (s := gapState e n s r m) hrep]
  refine emit_eq_slotState (pin := false) he (by simpa using hm) (Nat.zero_mod _).symm ?_
  simp [gapState, dueState, slotState, hm, BitVec.ofNat_add]

/-- The end of the last gap completes the transmission (R99, R100). -/
theorem gapEnd_gapState_last (hr : r + 1 = n.toNat) (hm : m = n.toNat * periodUs e) :
    gapEnd (gapState e n s r m) = sentState e n s := by
  have hrep := mt (ofNat_add_one_lt_iff_toNat (k := r) (n := n) (by omega)).1 (by omega)
  rw [gapEnd_of_last_rep (s := gapState e n s r m) hrep]
  simp only [complete, gapState, sentState, hr, hm]

/-! ### Tick by tick through a transmission -/

theorem div_slotUs_lt_iff : d / slotUs e < 5 * e.seq.length ↔ d < frameGroupUs e :=
  Nat.div_lt_iff_lt_mul (slotUs_pos e)

/-- Within a frame group a tick leads one microsecond on: in the same slot, to the next one, or to the gap (R98). -/
theorem tick_repState_of_slot (he : EndsLowAndFits Config.params e.seq) (hd : d < frameGroupUs e) :
    tick (repState e n s r d) = repState e n s r (d + 1) := by
  have hdm := Nat.div_add_mod' d (slotUs e)
  have hmod := Nat.mod_lt d (slotUs_pos e)
  rw [repState_of_slot hd]
  by_cases hwait : d % slotUs e + 1 < slotUs e
  · obtain ⟨hdiv', -⟩ := succ_div_mod_of_lt hwait
    have hslot : d + 1 < frameGroupUs e := div_slotUs_lt_iff.1 (hdiv' ▸ div_slotUs_lt_iff.2 hd)
    rw [repState_of_slot hslot, hdiv', ← Nat.add_assoc]
    exact tick_slotState_waiting (by omega) (by rw [Nat.add_one_mul]; omega)
  · obtain ⟨hdiv', -⟩ := succ_div_mod_of_eq (a := d) (b := slotUs e) (by omega)
    have hnext : d + 1 = (d / slotUs e + 1) * slotUs e := by rw [Nat.add_one_mul]; omega
    have hm : r * periodUs e + d + 1 = r * periodUs e + (d / slotUs e + 1) * slotUs e := by
      rw [← hnext, Nat.add_assoc]
    rw [tick_slotState_over hm]
    by_cases hmore : d + 1 < frameGroupUs e
    · rw [repState_of_slot hmore, hdiv', ← Nat.add_assoc]
      exact slotEnd_slotState he (hdiv' ▸ div_slotUs_lt_iff.2 hmore) hm
    · have hover : d + 1 = frameGroupUs e := by omega
      have hlast : d / slotUs e + 1 = 5 * e.seq.length :=
        Nat.eq_of_mul_eq_mul_right (slotUs_pos e) (hnext.symm.trans hover)
      rw [repState_of_gap hover.ge, ← Nat.add_assoc]
      exact slotEnd_slotState_last he hlast

/-- Within a repetition a tick leads one microsecond on (R97, R106). -/
theorem tick_repState (he : EndsLowAndFits Config.params e.seq) (hd : d + 1 < periodUs e) :
    tick (repState e n s r d) = repState e n s r (d + 1) := by
  have hperiod : periodUs e = frameGroupUs e + 35000 := rfl
  by_cases hslot : d < frameGroupUs e
  · exact tick_repState_of_slot he hslot
  · rw [repState_of_gap (by omega), repState_of_gap (by omega), ← Nat.add_assoc]
    exact tick_gapState_waiting (by rw [Nat.add_one_mul]; omega) (by rw [Nat.add_one_mul]; omega)

/-- From the last microsecond of a repetition that is not the last, a tick leads to the next repetition (R99). -/
theorem tick_repState_next (he : EndsLowAndFits Config.params e.seq) (hd : d + 1 = periodUs e)
    (hr : r + 1 < n.toNat) :
    tick (repState e n s r d) = repState e n s (r + 1) 0 := by
  have hperiod : periodUs e = frameGroupUs e + 35000 := rfl
  have hm : r * periodUs e + d + 1 = (r + 1) * periodUs e := by rw [Nat.add_one_mul, Nat.add_assoc, hd]
  rw [repState_of_gap (by omega), tick_gapState_over hm, gapEnd_gapState he hr hm,
    repState_of_slot (frameGroupUs_pos he), Nat.zero_div, hm, Nat.add_zero (_ * _)]

/-- From the last microsecond of the last repetition, a tick completes the transmission (R100). -/
theorem tick_repState_last (hd : d + 1 = periodUs e) (hr : r + 1 = n.toNat) :
    tick (repState e n s r d) = sentState e n s := by
  have hperiod : periodUs e = frameGroupUs e + 35000 := rfl
  have hm : r * periodUs e + d + 1 = (r + 1) * periodUs e := by rw [Nat.add_one_mul, Nat.add_assoc, hd]
  rw [repState_of_gap (by omega), tick_gapState_over hm, gapEnd_gapState_last hr (hr ▸ hm)]

/-- `m` microseconds after its START a transmission stands where the closed form says (R106). -/
theorem ticks_eq_repState (he : EndsLowAndFits Config.params e.seq) (hm : m < n.toNat * periodUs e) :
    ticks m (beginTransmission (capture e n s)) = repState e n s (m / periodUs e) (m % periodUs e) := by
  induction m with
  | zero =>
    rw [ticks, beginTransmission_eq_slotState he, Nat.zero_div, Nat.zero_mod,
      repState_of_slot (frameGroupUs_pos he), Nat.zero_mul, Nat.zero_div]
  | succ m ih =>
    have hmod := Nat.mod_lt m (periodUs_pos e)
    rw [Nat.add_comm, ticks_add, ih (Nat.lt_of_succ_lt hm), Nat.add_comm 1]
    by_cases hsame : m % periodUs e + 1 < periodUs e
    · obtain ⟨hdiv', hmod'⟩ := succ_div_mod_of_lt hsame
      rw [hdiv', hmod']
      exact tick_repState he hsame
    · obtain ⟨hdiv', hmod'⟩ := succ_div_mod_of_eq (a := m) (b := periodUs e) (by omega)
      have hr : (m + 1) / periodUs e < n.toNat := (Nat.div_lt_iff_lt_mul (periodUs_pos e)).2 hm
      rw [hdiv', hmod']
      exact tick_repState_next he (by omega) (hdiv' ▸ hr)

/-- After its last gap the transmission is complete (R100, R107). -/
theorem ticks_eq_sentState (he : EndsLowAndFits Config.params e.seq) (hn : n ≠ 0) :
    ticks (n.toNat * periodUs e) (beginTransmission (capture e n s)) = sentState e n s := by
  have hperiod := periodUs_pos e
  obtain ⟨r, hr⟩ : ∃ r, n.toNat = r + 1 := Nat.exists_eq_succ_of_ne_zero fun h => hn (BitVec.eq_of_toNat_eq h)
  obtain ⟨d, hd⟩ : ∃ d, periodUs e = d + 1 := Nat.exists_eq_succ_of_ne_zero hperiod.ne'
  have hm : n.toNat * periodUs e = 1 + (r * periodUs e + d) := by rw [hr, Nat.add_one_mul]; omega
  obtain ⟨hdiv, hmod⟩ := (Nat.div_mod_unique (a := r * periodUs e + d) (c := d) (d := r) hperiod).2
    ⟨by rw [Nat.mul_comm, Nat.add_comm], by omega⟩
  rw [hm, ticks_add, ticks_eq_repState he (by omega), hdiv, hmod]
  exact tick_repState_last hd.symm hr.symm

/-! ### What the statements say of these states -/

theorem inSlot_slotState (he : EndsLowAndFits Config.params e.seq) (hq : q < 5 * e.seq.length) (hr : r < n.toNat) :
    InSlot e s.now r (q / e.seq.length) (q % e.seq.length) (slotState e n s r q m) := by
  have hmod := Nat.mod_lt q he.length_pos
  have hlen := he.length_lt
  have hdiv : q / e.seq.length < 5 := Nat.div_lt_of_lt_mul (Nat.mul_comm .. ▸ hq)
  have hn := n.isLt
  refine ⟨rfl, Nat.mod_eq_of_lt (by omega), Nat.mod_eq_of_lt (by omega), Nat.mod_eq_of_lt (by omega), ?_, ?_⟩
  · rw [List.getElem?_eq_getElem hmod]
    exact congrArg some (List.getD_eq_getElem _ _ hmod).symm
  · rw [Nat.div_add_mod']
    rfl

theorem inGap_gapState (hr : r < n.toNat) : InGap e s.now r (gapState e n s r m) :=
  ⟨rfl, Nat.mod_eq_of_lt (hr.trans n.isLt), rfl, rfl, rfl, rfl⟩

theorem repState_now : (repState e n s r d).now = timeAfter s.now (r * periodUs e + d) := by
  rw [repState]
  split <;> rfl

theorem repState_busy : (repState e n s r d).phase ≠ .idle := by
  rw [repState]
  split <;> exact nofun

end

/-! ### The statements about the whole transmission -/

/-- Settles O54: the closed form of the state after `m` ticks, read field by field. -/
theorem transmissionFollowsTheClosedForm : Obligations.TransmissionFollowsTheClosedForm := by
  unfold Obligations.TransmissionFollowsTheClosedForm
  intro i e s he hs hreps
  have held := encodeCommand_endsLowAndFits config_params_legal he
  refine ⟨_, exec_begins_transmission he hs hreps, fun m => ⟨fun hm => ?_, fun hm => ?_⟩⟩
  · have hr : m / periodUs e < (repsOf i).toNat := (Nat.div_lt_iff_lt_mul (periodUs_pos e)).2 hm
    rw [ticks_eq_repState held hm]
    refine ⟨by rw [repState_now, Nat.div_add_mod'], fun hslot => ?_, fun hgap => ?_⟩
    · rw [repState_of_slot hslot]
      exact inSlot_slotState held (div_slotUs_lt_iff.2 hslot) hr
    · rw [repState_of_gap hgap]
      exact inGap_gapState hr
  · rw [hm, ticks_eq_sentState held hreps]
    exact ⟨rfl, rfl, rfl, rfl, rfl, rfl, rfl⟩

/-- Settles O55, from the same closed form: the events stand in its states. -/
theorem transmissionRecordsTheScheduledEvents : Obligations.TransmissionRecordsTheScheduledEvents := by
  unfold Obligations.TransmissionRecordsTheScheduledEvents
  intro i e s he hs hreps
  have held := encodeCommand_endsLowAndFits config_params_legal he
  refine ⟨_, exec_begins_transmission he hs hreps, fun m hm => ?_, ?_, ?_, scheduledEvents_length ..⟩
  · rw [ticks_eq_repState held hm]
    exact repState_busy
  · rw [ticks_eq_sentState held hreps]
    rfl
  · rw [ticks_eq_sentState held hreps]
    rfl

end Sys2Proof.Machine

namespace Sys2Proof.Machine

/-! ### Every cycle answers -/

/-- A cycle answers a next state whatever its input ports present (R15, R109, R110). -/
theorem clkCycle_answers (c : ClkInput) (s : State) : ∃ t, clkCycle c s = .next t := by
  by_cases hrst : c.rst = true
  · exact ⟨_, if_pos hrst⟩
  by_cases hsel : c.busSel = true
  · simp only [clkCycle, if_neg hrst, if_pos hsel]
    exact access_answers _ _ _ _
  · exact ⟨_, (if_neg hrst).trans (if_neg hsel)⟩

/-- With nothing presented, the cycle holds a tick and no access (log entry 4). -/
theorem step_of_empty_agenda {s : State} (h : s.agenda = []) : step s = .next (tick { s with busOut := none }) := by
  have hinput : nextInput s = tickCycle := by rw [nextInput, h]
  have hagenda : nextAgenda s = s.agenda := by simp only [nextAgenda, h]
  rw [step_eq, hinput, hagenda]
  rfl

/-- Settles O26: the step is one cycle, and every cycle answers. -/
theorem everyStepAnswersANextState : Obligations.EveryStepAnswersANextState := by
  unfold Obligations.EveryStepAnswersANextState
  exact fun s => ⟨clkCycle_answers _ _, step_of_empty_agenda⟩

/-! ### The cycle of a completion -/

section
variable {s : State}

/-- The tick that ends the last gap leaves the block idle at its first position, with DONE set (R99, R100). -/
theorem tick_of_completing (h : CompletesNextTick s) :
    tick s = { s with now := s.now + 1, rep := 0, replay := 0, bit := 0, phase := .idle, done := true } := by
  obtain ⟨hphase, hdeadline, hrep⟩ := h
  exact (tick_of_gap_over hphase hdeadline).trans (gapEnd_of_last_rep (s := { s with now := s.now + 1 }) hrep)

/-- An access in the cycle of a completion meets the completed block (R112). -/
theorem accessState_of_completing (htick : (nextInput s).usTick = true) (h : CompletesNextTick s) :
    accessState s = { s with
      now := s.now + 1
      rep := 0
      replay := 0
      bit := 0
      phase := .idle
      done := true
      agenda := nextAgenda s
      busOut := none } :=
  (if_pos htick).trans (tick_of_completing (s := { s with agenda := nextAgenda s, busOut := none }) h)

end

/-- Settles O31: the completing tick comes before the access, so that START meets an idle block and begins its
transmission at the advanced NOW. -/
theorem startInTheCycleOfCompletionIsAccepted : Obligations.StartInTheCycleOfCompletionIsAccepted := by
  unfold Obligations.StartInTheCycleOfCompletionIsAccepted
  intro s e hphase hdeadline hrep htick hstart he hreps
  rw [decode, cmdOfWord_wordOfCmd] at he
  have haccess := accessState_of_completing htick ⟨hphase, hdeadline, hrep⟩
  have hidle : (accessState s).phase = .idle := by rw [haccess]
  obtain ⟨b, hfirst⟩ := exists_head?_of_encoding he
  have hexec := exec_starts_first_slot he hfirst hidle (by rwa [repsOf_decodeFields])
  rw [haccess] at hexec
  rw [step_of_presentsStart hstart, haccess, hexec]
  exact ⟨_, rfl, rfl, rfl, rfl, rfl, rfl, rfl, rfl, rfl, rfl, rfl⟩

end Sys2Proof.Machine

namespace Sys2Proof.Machine

/-! ### Reset -/

/-- A cycle with `rst` high is the reset step: it looks at no other input port (R15, R122). -/
theorem step_of_rst {s : State} (hrst : (nextInput s).rst = true) :
    step s = .next (resetStep { s with agenda := nextAgenda s }) := by
  rw [step_eq, clkCycle, if_pos hrst]

/-- The records and the agenda, which outlive a reset, are in no register (R19, R122). -/
theorem registerValue_resetStep (r : Reg) (s : State) :
    registerValue r (resetStep s) = registerValue r State.reset := by
  cases r <;> rfl

/-- Settles O27: the cycle is the reset step, and its registers are those of the reset state, which O29 gives. -/
theorem resetCycleSetsTheResetValues : Obligations.ResetCycleSetsTheResetValues := by
  unfold Obligations.ResetCycleSetsTheResetValues
  intro s hrst
  obtain ⟨hregisters, -⟩ := resetStateHoldsTheResetValues
  exact ⟨_, step_of_rst hrst, rfl, rfl, rfl, rfl, rfl, rfl, rfl, rfl, rfl, rfl, rfl, rfl, rfl, rfl,
    fun r => (registerValue_resetStep r _).trans (hregisters r)⟩

/-- Settles O50: a reset step establishes the invariant, and it leaves the reset state as it is. -/
theorem resetMeetsTheInvariant : Obligations.ResetMeetsTheInvariant := by
  unfold Obligations.ResetMeetsTheInvariant
  have hfixed : resetStep State.reset = State.reset := rfl
  exact hfixed ▸ inv_resetStep State.reset

end Sys2Proof.Machine

namespace Sys2Proof.Machine

/-! ### What outlives a reset -/

/-- Settles O28: the cycle is the reset step, which presents no response and keeps the two records and the agenda. -/
theorem resetCycleKeepsTheRecords : Obligations.ResetCycleKeepsTheRecords := by
  unfold Obligations.ResetCycleKeepsTheRecords
  intro s hrst
  exact ⟨_, step_of_rst hrst, resetStep_busOut _, resetStep_events _, resetStep_hostFaults _, resetStep_agenda _⟩

end Sys2Proof.Machine
